-- ==== Sys2Proof/Word.lean ====
section
/-! DEFINITION. The word and byte types of the WMC (R10, R11, R12): the 32-bit bus word, the 8-bit byte
and the byte string. No operation stands here; every helper a test could show wrong is under Machine/. -/

namespace Sys2Proof

/-- The 32-bit word of the bus and of every register of the register page (R10). -/
abbrev Word := BitVec 32

/-- One 8-bit byte. -/
abbrev Byte := BitVec 8

/-- A byte string: a finite sequence of 8-bit values (R12). -/
abbrev Bytes := List Byte

end Sys2Proof
end

