-- ==== Sys2Proof/Config.lean ====
section
/-! DEFINITION. The implementation parameters of R8 that an implementation fixes: BASE and BUF_BYTES. They
are data that State carries and no step changes, so a claim over all states is a claim over all their values.
ENC_CODE and VER_CODE are fixed by R8 and stand in Machine/Operands.lean. -/

namespace Sys2Proof

/-- The parameters of one WMC instance (R8). -/
structure Params where
  /-- BASE: the bus address of offset 0 of the window. OPEN in R8; legal values are multiples of 0x40000. -/
  base : Nat
  /-- BUF_BYTES: the size in bytes of IN_BUF and of OUT_BUF; multiples of 16 from 64 to 65536. -/
  bufBytes : Nat
  deriving DecidableEq, Repr

/-- The parameters of the reset state: BUF_BYTES at the default of R8; BASE is OPEN there and 0 here
(DESIGN CHOICE, log entry 1). -/
def Config.params : Params := ⟨0, 2048⟩

/-- The size in bytes of the window of window offsets 0x00000 to 0x3FFFF (R10, R80). -/
def Config.windowBytes : Nat := 0x40000

end Sys2Proof
end

