-- ==== Sys2Proof/Machine/State.lean ====
section
/-! DEFINITION. The state of one WMC instance and of its two sides, the bus and the rst input, as plain data
(R30 to R61, R80, R361), the reasons a step can stop, and the state right after reset (R61). -/

namespace Sys2Proof.Machine

/-- A buffer's bytes as (offset in the buffer, byte), offsets strictly rising, no entry 0x00. An unlisted
offset reads as 0x00, the reset contents of R61. -/
abbrev Memory := List Host.Cell

/-- CTRL (R35). SOFT_RESET always reads 0 and is not stored. -/
structure Ctrl where
  /-- Bit 0, IRQ_EN. -/
  irqEn : Bool
  /-- Bit 2, STRICT_FLAGS. -/
  strictFlags : Bool
  deriving DecidableEq, Repr

/-- The header registers (R45 to R51), each at the width of its writable bits. -/
structure Header where
  /-- HDR_VERSION bits 3:0 (R45). -/
  version : BitVec 4
  /-- HDR_ENC_TYPE bits 3:0 (R46). -/
  encType : BitVec 4
  /-- HDR_FLAGS bits 15:0 at their header-word positions; bits outside 0x0F0F are 0 (R47). -/
  flags : BitVec 16
  /-- MSG_ID (R48). -/
  msgId : Word
  /-- SRC_NODE_LO (R49). -/
  srcLo : Word
  /-- SRC_NODE_HI (R49). -/
  srcHi : Word
  /-- DST_NODE_LO (R50). -/
  dstLo : Word
  /-- DST_NODE_HI (R50). -/
  dstHi : Word
  /-- KEY_ID bits 15:0 (R51). -/
  keyId : BitVec 16
  deriving DecidableEq, Repr

/-- The key registers (R52 to R54). -/
structure Keys where
  /-- KEY_TYPE bits 1:0 (R52). -/
  keyType : BitVec 2
  /-- DATA_KEY0 to DATA_KEY3, write-only (R53). -/
  dataKey0 : Word
  dataKey1 : Word
  dataKey2 : Word
  dataKey3 : Word
  /-- INT_KEY0 to INT_KEY4, write-only (R54). -/
  intKey0 : Word
  intKey1 : Word
  intKey2 : Word
  intKey3 : Word
  intKey4 : Word
  deriving DecidableEq, Repr

/-- The snapshot S of a running command, taken at the instant of its CMD write (R15, R120). -/
structure Snapshot where
  /-- The command word that was written to CMD. -/
  cmd : Word
  ctrl : Ctrl
  inLen : BitVec 17
  hdr : Header
  keys : Keys
  inBuf : Memory
  deriving DecidableEq, Repr

/-- Phase (R31, R59): while BUSY, and only then, the engine holds the snapshot. -/
inductive Phase where
  | idle
  | busy (snap : Snapshot)
  deriving DecidableEq, Repr

/-- One turn of the schedule the outside world gives the instance (R18, R92, R333): a host bus transaction
(R86), a level driven on the rst input (R361), or a turn in which the engine may take its step (R18). -/
inductive Event where
  /-- A read of `size` bytes at bus address `addr`. -/
  | read (addr size : Nat)
  /-- A write of `size` bytes with the data word `value` at bus address `addr`. -/
  | write (addr size : Nat) (value : Word)
  /-- The rst input is driven to `level`. -/
  | rst (level : Bool)
  /-- The engine's turn: it completes the running command, if there is one. -/
  | engine
  deriving DecidableEq, Repr

/-- Why a step stops with a fault. -/
inductive Fault where
  /-- Raised by the bus access of Machine/Bus.lean when a scheduled access is outside the window BASE to
  BASE + 0x3FFFF, the only address space of the WMC (R80). Safe: the hardware is not addressed and goes on. -/
  | outsideWindow
  deriving DecidableEq, Repr

/-- Why a step is refused. -/
inductive Refusal where
  /-- An arm of exec that has no meaning yet, by the mnemonic of its row. No arm is refused in this model. Safe. -/
  | notModelled (mnemonic : String)
  deriving DecidableEq, Repr

/-- The whole state. ID is the constant of R33, CMD keeps nothing that can be read (R37), STATUS.BUSY is Phase
(R31), STATUS.ERR is ERR_CODE != 0 (R38) and irq is computed (R340), so none of these is stored twice. -/
structure State where
  /-- BASE and BUF_BYTES, the latter also the content of BUF_SIZE (R8, R34). No step changes them. -/
  params : Params
  /-- The level of the rst input (R60, R361). -/
  rst : Bool
  /-- Phase and the snapshot (R31, R59). -/
  phase : Phase
  /-- CTRL (R35). -/
  ctrl : Ctrl
  /-- STATUS.DONE, bit 1 (R38). -/
  done : Bool
  /-- STATUS.WERR, bit 3 (R38, R93). -/
  werr : Bool
  /-- STATUS.BUSERR, bit 4 (R38, R87). -/
  buserr : Bool
  /-- ERR_CODE bits 3:0 (R40). -/
  errCode : BitVec 4
  /-- ERR_DETAIL bits 7:0 (R41). -/
  errDetail : BitVec 8
  /-- IN_LEN bits 16:0 (R42). -/
  inLen : BitVec 17
  /-- OUT_LEN bits 16:0 (R43). -/
  outLen : BitVec 17
  /-- HDR_LEN bits 4:0 (R44). -/
  hdrLen : BitVec 5
  /-- HDR_VERSION, HDR_ENC_TYPE, HDR_FLAGS, MSG_ID, SRC_NODE, DST_NODE, KEY_ID (R45 to R51). -/
  hdr : Header
  /-- KEY_TYPE, DATA_KEY0-3, INT_KEY0-4 (R52 to R54). -/
  keys : Keys
  /-- IN_BUF (R57). -/
  inBuf : Memory
  /-- OUT_BUF (R58). -/
  outBuf : Memory
  /-- The data word the last bus read returned (R86). The model's own: the host's side of the bus. -/
  readData : Word
  /-- The schedule: the events that come next, the first at the head (R92). The model's own. -/
  script : List Event
  deriving DecidableEq, Repr

/-- The state after reset of an instance with the parameters p, rst released and nothing scheduled (R61, R361). -/
def State.resetWith (p : Params) : State where
  params := p
  rst := false
  phase := .idle
  ctrl := ⟨false, false⟩
  done := false
  werr := false
  buserr := false
  errCode := 0
  errDetail := 0
  inLen := 0
  outLen := 0
  hdrLen := 0
  hdr := ⟨0, 0, 0, 0, 0, 0, 0, 0, 0⟩
  keys := ⟨0, 0, 0, 0, 0, 0, 0, 0, 0, 0⟩
  inBuf := []
  outBuf := []
  readData := 0
  script := []

/-- The machine right after reset (R61, R363), with the parameters of Config. -/
def State.reset : State := State.resetWith Config.params

end Sys2Proof.Machine
end

