-- ==== Sys2Proof/Machine/Flags.lean ====
section
/-! DEFINITION. The bits the host sees of CTRL and STATUS, and the irq output (R35, R38, R340). -/

namespace Sys2Proof.Machine

/-- A Boolean as bit n of a register word. -/
def bitAt (n : Nat) (b : Bool) : Word := if b then 1#32 <<< n else 0

/-- STATUS.BUSY reads Phase = BUSY (R31, R38). -/
def State.isBusy (s : State) : Bool :=
  match s.phase with
  | .idle => false
  | .busy _ => true

/-- STATUS.ERR reads 1 exactly when ERR_CODE != 0 (R38). It looks at the kept ERR_CODE while BUSY too (R120), where a
read of ERR_CODE itself returns 0 (R91): with an error before it, a running command shows STATUS = 0x5
(DESIGN CHOICE, log entry 15). -/
def State.err (s : State) : Bool := s.errCode != 0

/-- The word a read of CTRL returns: SOFT_RESET and bits 31:3 read 0 (R35). -/
def State.ctrlWord (s : State) : Word := bitAt 0 s.ctrl.irqEn ||| bitAt 2 s.ctrl.strictFlags

/-- The word a read of STATUS returns (R38). -/
def State.statusWord (s : State) : Word :=
  bitAt 0 s.isBusy ||| bitAt 1 s.done ||| bitAt 2 s.err ||| bitAt 3 s.werr ||| bitAt 4 s.buserr

/-- The level of the irq output: CTRL.IRQ_EN AND STATUS.DONE (R340). -/
def State.irq (s : State) : Bool := s.ctrl.irqEn && s.done

end Sys2Proof.Machine
end

