-- ==== Sys2Proof/Syntax.lean ====
section
/-! DEFINITION. The commands of the WMC: one constructor for each row of spec/opcode_table.json (R110, R111). -/

namespace Sys2Proof

/-- The nine commands of the opcode map (R111). A command has no register, immediate or mode field: every
operand is implicit (R110), so no constructor carries an argument. -/
inductive Instr where
  /-- NOP, OPC 0x00: completes with success and changes nothing else (R281). -/
  | nop
  /-- ENCODE, OPC 0x01: validates, packs the header, applies the transform (R282). -/
  | encode
  /-- DECODE, OPC 0x02: parses the header, applies the inverse transform, verifies (R290). -/
  | decode
  /-- PACK_HDR, OPC 0x10: validates and packs the unencrypted header region (R160). -/
  | packHdr
  /-- UNPACK_HDR, OPC 0x11: parses the unencrypted header region (R165). -/
  | unpackHdr
  /-- BUILD_PSEUDO, OPC 0x12: writes the pseudo-header (R184). -/
  | buildPseudo
  /-- DERIVE_CTR, OPC 0x13: writes the AES-CTR initial counter (R193). -/
  | deriveCtr
  /-- DERIVE_NONCE, OPC 0x14: writes the EAX nonce (R194). -/
  | deriveNonce
  /-- ZEROIZE, OPC 0x20: clears key registers, buffers and lengths (R305). -/
  | zeroize
  deriving DecidableEq, Repr

/-- Why a command word is illegal (R113). -/
inductive IllegalCommand where
  /-- OPC is not in the opcode map: ERR_DETAIL 0x30. -/
  | unknownOpcode
  /-- OPC is in the map and RSV is not 0: ERR_DETAIL 0x31. -/
  | reservedBits
  deriving DecidableEq, Repr

end Sys2Proof
end

