-- ==== Sys2Proof/WellFormed.lean ====
section
/-! DEFINITION. What is well formed: a command (R110) and the parameters of an instance (R8). -/

namespace Sys2Proof

/-- No command has a field (R110), so no check can fail: every term of Instr is a command of the map. -/
def Instr.wf : Instr → Bool
  | .nop => true
  | .encode => true
  | .decode => true
  | .packHdr => true
  | .unpackHdr => true
  | .buildPseudo => true
  | .deriveCtr => true
  | .deriveNonce => true
  | .zeroize => true

/-- The legal parameters of R8: BASE aligned to 0x40000, BUF_BYTES a multiple of 16 from 64 to 65536. -/
def Params.wf (p : Params) : Bool :=
  p.base % 0x40000 == 0 && p.bufBytes % 16 == 0 && 64 ≤ p.bufBytes && p.bufBytes ≤ 65536

end Sys2Proof
end

