-- ==== Sys2Proof/Decode.lean ====
section
/-! DEFINITION. Command words: the decoder of R113, total on all 2^32 words, and the encoder of R110 and R111. -/

namespace Sys2Proof

/-- OPC, bits 7:0 of the command word (R110). -/
def opcodeField (w : Word) : BitVec 8 := w.extractLsb' 0 8

/-- RSV, bits 31:8 of the command word (R110). -/
def reservedField (w : Word) : BitVec 24 := w.extractLsb' 8 24

/-- The opcode map (R111); none for an OPC that is not in it. -/
def commandOfOpcode (opc : BitVec 8) : Option Instr :=
  match opc.toNat with
  | 0x00 => some .nop
  | 0x01 => some .encode
  | 0x02 => some .decode
  | 0x10 => some .packHdr
  | 0x11 => some .unpackHdr
  | 0x12 => some .buildPseudo
  | 0x13 => some .deriveCtr
  | 0x14 => some .deriveNonce
  | 0x20 => some .zeroize
  | _ => none

/-- `Decode(w)` (R113): the OPC test comes first, then the RSV test. -/
def decode (w : Word) : Except IllegalCommand Instr :=
  match commandOfOpcode (opcodeField w) with
  | none => .error .unknownOpcode
  | some i => if reservedField w = 0 then .ok i else .error .reservedBits

/-- The command word of a command: OPC of R111 in bits 7:0, RSV = 0 (R110). -/
def encode : Instr → Word
  | .nop => 0x00000000
  | .encode => 0x00000001
  | .decode => 0x00000002
  | .packHdr => 0x00000010
  | .unpackHdr => 0x00000011
  | .buildPseudo => 0x00000012
  | .deriveCtr => 0x00000013
  | .deriveNonce => 0x00000014
  | .zeroize => 0x00000020

/-- The instruction the decoder reads from the low nbits of w, as spec/opcode_table.json numbers the bits.
A command is one 32-bit word (R110): bits above nbits are 0. -/
def decodeTableWord (nbits w : Nat) : Option Instr :=
  (decode (BitVec.ofNat 32 (w % 2 ^ nbits))).toOption

end Sys2Proof
end

