-- ==== Sys2Proof/Machine/Bytes.lean ====
section
/-! DEFINITION. Byte strings and byte order (R11, R12, R82, R83): LE and BE encodings, their inverses uLE and
uBE, zeros, bytewise exclusive or, truncation, and the comparison CtEq (R227). -/

namespace Sys2Proof.Machine

/-- `zeros(n)`: n bytes of 0x00 (R12). -/
def zeros (n : Nat) : Bytes := List.replicate n 0

/-- The n bytes of v, least significant byte first: LE16, LE32 and LE64 are n = 2, 4 and 8 (R12). -/
def leBytes : Nat → Nat → Bytes
  | 0, _ => []
  | n + 1, v => BitVec.ofNat 8 v :: leBytes n (v / 256)

/-- The n bytes of v, most significant byte first: BE32, BE64 and BE128 are n = 4, 8 and 16 (R12). -/
def beBytes (n v : Nat) : Bytes := (leBytes n v).reverse

/-- `uLE(s)`: the number whose little-endian byte string is s (R12). -/
def uLE : Bytes → Nat
  | [] => 0
  | b :: s => b.toNat + 256 * uLE s

/-- `uBE(s)`: the number whose big-endian byte string is s (R12). -/
def uBE (s : Bytes) : Nat := uLE s.reverse

/-- `s XOR t`: the bytewise exclusive or of two strings of equal length (R12). -/
def xorBytes (s t : Bytes) : Bytes := List.zipWith (· ^^^ ·) s t

/-- `trunc(s, n) = s[0..n)` (R12). -/
def trunc (s : Bytes) (n : Nat) : Bytes := s.take n

/-- `s[i..j)`: the bytes i to j - 1, empty when j <= i (R12). -/
def slice (s : Bytes) (i j : Nat) : Bytes := (s.take j).drop i

/-- `CtEq(a, b)` (R227): the or of all the byte differences is 0. Every byte is examined. -/
def ctEq (a b : Bytes) : Bool := (xorBytes a b).foldl (· ||| ·) 0 == 0

end Sys2Proof.Machine
end

