-- ==== Sys2Proof/Machine/Errors.lean ====
section
/-! DEFINITION. The errors a command can report, with their ERR_CODE and ERR_DETAIL (R320, R321). -/

namespace Sys2Proof.Machine

/-- Every error of R321, one constructor for each detail value. -/
inductive CmdError where
  | version          -- version code not 1 or 2
  | encType          -- encryption type code above 3
  | undefinedFlags   -- an undefined flag bit set while STRICT_FLAGS = 1
  | anyNodeId        -- sourceNodeId = AnyNodeId
  | equalNodeIds     -- sourceNodeId = destNodeId
  | tunneledSync     -- TunneledData and MsgCounterSyncReq both set
  | v1Tunneled       -- version V1 with TunneledData set
  | keyVariant       -- KEY_TYPE does not match the encryption type
  | noHeaderWord     -- message shorter than 2 bytes
  | shortHeader      -- message shorter than the header its header word implies
  | shortRegion      -- encrypted region shorter than the tag
  | inputTooLong     -- IN_LEN above BUF_BYTES on DECODE or UNPACK_HDR
  | integrity        -- HMAC-SHA1 tag mismatch
  | authentication   -- EAX tag mismatch
  | unknownOpcode    -- opcode not in the opcode map
  | reservedBits     -- known opcode with a nonzero reserved field
  | outputCapacity   -- ENCODE output longer than BUF_BYTES
  | inputCapacity    -- ENCODE with IN_LEN above BUF_BYTES
  deriving DecidableEq, Repr

/-- ERR_CODE of an error (R320, the second column of R321). -/
def errorCode : CmdError → BitVec 4
  | .version | .encType | .undefinedFlags | .anyNodeId | .equalNodeIds | .tunneledSync | .v1Tunneled
  | .keyVariant => 1
  | .noHeaderWord | .shortHeader | .shortRegion | .inputTooLong => 2
  | .integrity => 3
  | .authentication => 4
  | .unknownOpcode | .reservedBits => 5
  | .outputCapacity | .inputCapacity => 6

/-- ERR_DETAIL of an error (the first column of R321). -/
def errorDetail : CmdError → BitVec 8
  | .version => 0x01
  | .encType => 0x02
  | .undefinedFlags => 0x03
  | .anyNodeId => 0x04
  | .equalNodeIds => 0x05
  | .tunneledSync => 0x06
  | .v1Tunneled => 0x07
  | .keyVariant => 0x08
  | .noHeaderWord => 0x10
  | .shortHeader => 0x11
  | .shortRegion => 0x12
  | .inputTooLong => 0x13
  | .integrity => 0x20
  | .authentication => 0x21
  | .unknownOpcode => 0x30
  | .reservedBits => 0x31
  | .outputCapacity => 0x40
  | .inputCapacity => 0x41

/-- The error of an illegal command word (R113, R306). -/
def illegalError : IllegalCommand → CmdError
  | .unknownOpcode => .unknownOpcode
  | .reservedBits => .reservedBits

end Sys2Proof.Machine
end

