-- ==== Sys2Proof/Machine/Operands.lean ====
section
/-! DEFINITION. Operands of the commands: the assembly of the header fields, keys and input from the snapshot
(R138), the header word and its flags (R130, R131), the version and encryption type codes (R132, R133), the
header length (R134), and the message header as the codec sees it. -/

namespace Sys2Proof.Machine

/-- DestNodeIdPresent, bit 8 (R131). -/
def destNodeIdPresent : BitVec 16 := 0x0100

/-- SourceNodeIdPresent, bit 9 (R131). -/
def sourceNodeIdPresent : BitVec 16 := 0x0200

/-- TunneledData, bit 10 (R131). -/
def tunneledData : BitVec 16 := 0x0400

/-- MsgCounterSyncReq, bit 11 (R131). -/
def msgCounterSyncReq : BitVec 16 := 0x0800

/-- The flags mask 0x0F0F of the header word (R130). -/
def flagsMask : BitVec 16 := 0x0F0F

/-- UNDEF_FLAGS, the undefined flag bits 0-3 (R131). -/
def undefFlags : BitVec 16 := 0x000F

/-- `f & mask != 0`. -/
def flagSet (f mask : BitVec 16) : Bool := f &&& mask != 0

/-- AnyNodeId, the reserved wildcard node id (R16). -/
def anyNodeId : BitVec 64 := 0xFFFFFFFFFFFFFFFF

/-- The four encryption types (R2, R133). -/
inductive EncType where
  | none
  | aes128CtrSha1
  | aes128Eax64
  | aes128Eax128
  deriving DecidableEq, Repr

/-- ENC_CODE: the wire code of a type (R8, R133). -/
def encCode : EncType → BitVec 4
  | .none => 0
  | .aes128CtrSha1 => 1
  | .aes128Eax64 => 2
  | .aes128Eax128 => 3

/-- The type of a wire code; none for the reserved codes 4 to 15 (R133). -/
def encTypeOf (code : BitVec 4) : Option EncType :=
  if code = 0 then some .none
  else if code = 1 then some .aes128CtrSha1
  else if code = 2 then some .aes128Eax64
  else if code = 3 then some .aes128Eax128
  else Option.none

/-- `TagLen(enc)` (R133). -/
def tagLen : EncType → Nat
  | .none => 0
  | .aes128CtrSha1 => 20
  | .aes128Eax64 => 8
  | .aes128Eax128 => 16

/-- `KeyNeeded(enc)`: the KEY_TYPE a type requires (R133, R284). -/
def keyNeeded : EncType → BitVec 2
  | .none => 0
  | .aes128CtrSha1 => 1
  | .aes128Eax64 => 2
  | .aes128Eax128 => 2

/-- VER_CODE: V1 = 1 and V2 = 2 are the defined version codes (R8, R132). -/
def versionDefined (ver : BitVec 4) : Bool := ver == 1 || ver == 2

/-- `HeaderWord(ver, enc, flags)` (R130). -/
def headerWord (ver enc : BitVec 4) (flags : BitVec 16) : BitVec 16 :=
  (flags &&& flagsMask) ||| (enc.setWidth 16 <<< 4) ||| (ver.setWidth 16 <<< 12)

/-- The version field of `UnpackWord(w)`, bits 15:12 (R130). -/
def wordVersion (w : BitVec 16) : BitVec 4 := w.extractLsb' 12 4

/-- The encryption type field of `UnpackWord(w)`, bits 7:4 (R130). -/
def wordEncType (w : BitVec 16) : BitVec 4 := w.extractLsb' 4 4

/-- The flags field of `UnpackWord(w)` (R130). -/
def wordFlags (w : BitVec 16) : BitVec 16 := w &&& flagsMask

/-- The size on the wire of sourceNodeId (R134). -/
def srcFieldLen (f : BitVec 16) : Nat := if flagSet f sourceNodeIdPresent then 8 else 0

/-- The size on the wire of destNodeId (R134). -/
def dstFieldLen (f : BitVec 16) : Nat := if flagSet f destNodeIdPresent then 8 else 0

/-- The size on the wire of keyId (R134). -/
def keyIdFieldLen (enc : BitVec 4) : Nat := if enc = 0 then 0 else 2

/-- `HeaderLen(flags, enc)` (R134). -/
def headerLen (f : BitVec 16) (enc : BitVec 4) : Nat :=
  6 + srcFieldLen f + dstFieldLen f + keyIdFieldLen enc

/-- A message header h with the fields of R161; the codes are kept as they stand on the wire. -/
structure MsgHeader where
  ver : BitVec 4
  enc : BitVec 4
  flags : BitVec 16
  msgId : BitVec 32
  src : BitVec 64
  dst : BitVec 64
  keyId : BitVec 16
  deriving DecidableEq, Repr

/-- `Src(S)`: SRC_NODE_HI << 32 | SRC_NODE_LO (R49, R138). -/
def Snapshot.src (S : Snapshot) : BitVec 64 := S.hdr.srcHi ++ S.hdr.srcLo

/-- `Dst(S)`: DST_NODE_HI << 32 | DST_NODE_LO (R50, R138). -/
def Snapshot.dst (S : Snapshot) : BitVec 64 := S.hdr.dstHi ++ S.hdr.dstLo

/-- `Flags(S) = S.HDR_FLAGS & 0x0F0F` (R138). -/
def Snapshot.flags (S : Snapshot) : BitVec 16 := S.hdr.flags &&& flagsMask

/-- `HdrOf(S)`: the header of the header registers (R138, R183). -/
def Snapshot.header (S : Snapshot) : MsgHeader where
  ver := S.hdr.version
  enc := S.hdr.encType
  flags := S.flags
  msgId := S.hdr.msgId
  src := S.src
  dst := S.dst
  keyId := S.hdr.keyId

/-- `DataKey(S)`: 16 bytes (R53, R138). -/
def Snapshot.dataKey (S : Snapshot) : Bytes :=
  leBytes 4 S.keys.dataKey0.toNat ++ leBytes 4 S.keys.dataKey1.toNat
    ++ leBytes 4 S.keys.dataKey2.toNat ++ leBytes 4 S.keys.dataKey3.toNat

/-- `IntKey(S)`: 20 bytes (R54, R138). -/
def Snapshot.intKey (S : Snapshot) : Bytes :=
  leBytes 4 S.keys.intKey0.toNat ++ leBytes 4 S.keys.intKey1.toNat
    ++ leBytes 4 S.keys.intKey2.toNat ++ leBytes 4 S.keys.intKey3.toNat
    ++ leBytes 4 S.keys.intKey4.toNat

/-- The byte of a buffer at offset k: 0x00 where the list has no entry (R57, R58, R61). -/
def Memory.get : Memory → Nat → Byte
  | [], _ => 0
  | c :: m, k => if c.1 = k then c.2 else Memory.get m k

/-- The first n bytes of a buffer, `Buf[0 .. n)`. -/
def Memory.toBytes (m : Memory) (n : Nat) : Bytes := (List.range n).map (Memory.get m)

/-- `Input(S) = S.InBuf[0 .. S.IN_LEN)` (R138). -/
def Snapshot.input (S : Snapshot) : Bytes := Memory.toBytes S.inBuf S.inLen.toNat

end Sys2Proof.Machine
end

