-- ==== Sys2Proof/Machine/Ops.lean ====
section
/-! DEFINITION. The shared operations: buffer writes, taking the snapshot and issuing a command (R120), the
register writes of a result and the completion of a command (R121, R122), the error completion, which plays the
part of taking an exception, and its acknowledgement, which plays the part of the return (R330 to R335), and
reset (R361, R362). -/

namespace Sys2Proof.Machine

/-- The canonical form of a buffer: offsets strictly rising and no byte 0x00 listed. -/
abbrev Memory.wf (m : Memory) : Prop :=
  m.Pairwise (fun c d => c.1 < d.1) ∧ ∀ c ∈ m, c.2 ≠ 0

/-- Every listed offset is below n. -/
abbrev Memory.within (n : Nat) (m : Memory) : Prop := ∀ c ∈ m, c.1 < n

/-- (k, b) put before the first entry of a higher offset. -/
def Memory.insert (k : Nat) (b : Byte) : Memory → Memory
  | [] => [(k, b)]
  | c :: m => if k < c.1 then (k, b) :: c :: m else c :: Memory.insert k b m

/-- One byte written at offset k; writing 0x00, what an unlisted offset reads as, only removes the entry. -/
def Memory.set (m : Memory) (k : Nat) (b : Byte) : Memory :=
  let rest := m.filter fun c => c.1 != k
  if b = 0 then rest else Memory.insert k b rest

/-- The byte string s written at the offsets k, k + 1, ... -/
def Memory.setBytes (m : Memory) (k : Nat) : Bytes → Memory
  | [] => m
  | b :: s => Memory.setBytes (Memory.set m k b) (k + 1) s

/-- The buffer that holds s from offset k on and 0x00 in every other byte. -/
def Memory.ofBytesFrom (k : Nat) : Bytes → Memory
  | [] => []
  | b :: s => if b = 0 then Memory.ofBytesFrom (k + 1) s else (k, b) :: Memory.ofBytesFrom (k + 1) s

/-- The buffer `s ‖ zeros(BUF_BYTES - len(s))` (R122). -/
def Memory.ofBytes (s : Bytes) : Memory := Memory.ofBytesFrom 0 s

/-- The snapshot of the registers and of IN_BUF, for the command word w (R120). -/
def State.capture (s : State) (w : Word) : Snapshot where
  cmd := w
  ctrl := s.ctrl
  inLen := s.inLen
  hdr := s.hdr
  keys := s.keys
  inBuf := s.inBuf

/-- Issue: the effect of an accepted write of w to CMD (R120). -/
def State.issue (s : State) (w : Word) : State :=
  { s with phase := .busy (s.capture w), done := false }

/-- The snapshot a command's meaning reads: S while BUSY (R120). While IDLE there is none, and the meaning then
reads the registers as they stand, as for a command issued in that instant (DESIGN CHOICE, log entry 4). -/
def State.operands (s : State) : Snapshot :=
  match s.phase with
  | .busy snap => snap
  | .idle => s.capture 0

/-- The command word the engine runs next: S.CMD while BUSY; none while IDLE or while rst = 1 (R18, R361). -/
def State.fetch (s : State) : Option Word :=
  if s.rst then none
  else
    match s.phase with
    | .idle => none
    | .busy snap => some snap.cmd

/-- One register write of a result's update list `upd` (R121); the last three are ZEROIZE's (R305). -/
inductive RegWrite where
  | hdrVersion (v : BitVec 4)
  | hdrEncType (v : BitVec 4)
  | hdrFlags (v : BitVec 16)
  | msgId (v : Word)
  | srcNodeLo (v : Word)
  | srcNodeHi (v : Word)
  | dstNodeLo (v : Word)
  | dstNodeHi (v : Word)
  | keyId (v : BitVec 16)
  | hdrLen (v : BitVec 5)
  | keysZero
  | inBufZero
  | inLenZero
  deriving DecidableEq, Repr

/-- `out` of a result (R121): a byte string, or the mark KEEP of NOP. -/
inductive Output where
  | keep
  | bytes (b : Bytes)
  deriving DecidableEq, Repr

/-- `Ok(out, upd)` (R121). -/
structure Success where
  out : Output
  upd : List RegWrite
  deriving DecidableEq, Repr

/-- The result of `Exec_c(S)` (R121): Ok(out, upd) or Error(code, detail). -/
abbrev CmdResult := Except CmdError Success

/-- The key registers and KEY_TYPE at 0. -/
def zeroKeys : Keys := ⟨0, 0, 0, 0, 0, 0, 0, 0, 0, 0⟩

/-- KEY_TYPE, DATA_KEY0-3 and INT_KEY0-4 set to 0 (R55, R122). -/
def State.clearKeys (s : State) : State := { s with keys := zeroKeys }

/-- One register write of `upd` (R122). -/
def State.applyWrite (s : State) : RegWrite → State
  | .hdrVersion v => { s with hdr := { s.hdr with version := v } }
  | .hdrEncType v => { s with hdr := { s.hdr with encType := v } }
  | .hdrFlags v => { s with hdr := { s.hdr with flags := v &&& flagsMask } }
  | .msgId v => { s with hdr := { s.hdr with msgId := v } }
  | .srcNodeLo v => { s with hdr := { s.hdr with srcLo := v } }
  | .srcNodeHi v => { s with hdr := { s.hdr with srcHi := v } }
  | .dstNodeLo v => { s with hdr := { s.hdr with dstLo := v } }
  | .dstNodeHi v => { s with hdr := { s.hdr with dstHi := v } }
  | .keyId v => { s with hdr := { s.hdr with keyId := v } }
  | .hdrLen v => { s with hdrLen := v }
  | .keysZero => s.clearKeys
  | .inBufZero => { s with inBuf := [] }
  | .inLenZero => { s with inLen := 0 }

/-- Every register write of `upd`, in order (R122). -/
def State.applyWrites (s : State) (upd : List RegWrite) : State := upd.foldl State.applyWrite s

/-- OUT_BUF and OUT_LEN from `out`: KEEP leaves both (R122). -/
def State.storeOutput (s : State) : Output → State
  | .keep => s
  | .bytes b => { s with outBuf := Memory.ofBytes b, outLen := BitVec.ofNat 17 b.length }

/-- The end of every completion: the snapshot is discarded, BUSY = 0, DONE = 1, Phase = IDLE (R122). -/
def State.finish (s : State) : State := { s with phase := .idle, done := true }

/-- The success completion (R122). -/
def State.completeOk (s : State) (r : Success) : State :=
  { (s.applyWrites r.upd).storeOutput r.out with errCode := 0, errDetail := 0 }.finish

/-- The error completion (R122, R330, R334), the WMC's counterpart of taking an exception: OUT_BUF is zeroed,
OUT_LEN = 0, code and detail are recorded, no register of `upd` is written, and Phase returns to IDLE. -/
def State.raiseError (s : State) (e : CmdError) : State :=
  { s with outBuf := [], outLen := 0, errCode := errorCode e, errDetail := errorDetail e }.finish

/-- The host's acknowledgement (R335), the counterpart of the return: the W1C bits of STATUS that v names are
cleared; nothing is restored, since error entry saved nothing. Every write to STATUS is this (R39). -/
def State.acknowledge (s : State) (v : Word) : State :=
  { s with
    done := s.done && !v.getLsbD 1
    werr := s.werr && !v.getLsbD 3
    buserr := s.buserr && !v.getLsbD 4 }

/-- Completion with a result (R122). -/
def State.complete (s : State) : CmdResult → State
  | .ok r => s.completeOk r
  | .error e => s.raiseError e

/-- The completion of an illegal command word (R113, R306): the keys are not cleared. -/
def State.completeIllegal (s : State) (why : IllegalCommand) : State := s.raiseError (illegalError why)

/-- Every piece of the WMC's own state at the value of R61. The parameters, the rst input, the host's side of the
bus and the schedule are not the WMC's to reset. -/
def State.resetAll (s : State) : State :=
  { State.resetWith s.params with rst := s.rst, readData := s.readData, script := s.script }

/-- The rst input is driven to a level: while it is 1, and when it falls, the state is that of R61 (R361). -/
def State.driveRst (s : State) (level : Bool) : State :=
  if level || s.rst then { s.resetAll with rst := level } else s

end Sys2Proof.Machine
end

