-- ==== Sys2Proof/Machine/Bus.lean ====
section
/-! DEFINITION. The host's side: the register map and the window (R32 to R58, R81), the bus transactions MemRead
and MemWrite (R85 to R87), and accesses while a command runs (R91, R93) or while rst = 1 (R361). -/

namespace Sys2Proof.Machine

/-- The defined registers (R32). -/
inductive Reg where
  | id | bufSize | ctrl | cmd | status | errCode | errDetail | inLen | outLen | hdrLen
  | hdrVersion | hdrEncType | hdrFlags | msgId | srcNodeLo | srcNodeHi | dstNodeLo | dstNodeHi
  | keyId | keyType
  | dataKey0 | dataKey1 | dataKey2 | dataKey3
  | intKey0 | intKey1 | intKey2 | intKey3 | intKey4
  deriving DecidableEq, Repr

/-- The register at a window offset (R32); none for 0x074 to 0xFFFC (R56). -/
def regAt (off : Nat) : Option Reg :=
  match off with
  | 0x000 => some .id
  | 0x004 => some .bufSize
  | 0x008 => some .ctrl
  | 0x00C => some .cmd
  | 0x010 => some .status
  | 0x014 => some .errCode
  | 0x018 => some .errDetail
  | 0x01C => some .inLen
  | 0x020 => some .outLen
  | 0x024 => some .hdrLen
  | 0x028 => some .hdrVersion
  | 0x02C => some .hdrEncType
  | 0x030 => some .hdrFlags
  | 0x034 => some .msgId
  | 0x038 => some .srcNodeLo
  | 0x03C => some .srcNodeHi
  | 0x040 => some .dstNodeLo
  | 0x044 => some .dstNodeHi
  | 0x048 => some .keyId
  | 0x04C => some .keyType
  | 0x050 => some .dataKey0
  | 0x054 => some .dataKey1
  | 0x058 => some .dataKey2
  | 0x05C => some .dataKey3
  | 0x060 => some .intKey0
  | 0x064 => some .intKey1
  | 0x068 => some .intKey2
  | 0x06C => some .intKey3
  | 0x070 => some .intKey4
  | _ => none

/-- What a legal access at a window offset reaches (R81). -/
inductive Target where
  | reg (r : Reg)
  /-- The word of IN_BUF whose first byte is at this buffer offset. -/
  | inBuf (k : Nat)
  /-- The word of OUT_BUF whose first byte is at this buffer offset. -/
  | outBuf (k : Nat)
  /-- A reserved offset: reads 0, writes ignored. -/
  | reserved
  deriving DecidableEq, Repr

/-- The regions of the window (R81, R85, R56 to R58). -/
def targetAt (bufBytes off : Nat) : Target :=
  if off < 0x10000 then
    match regAt off with
    | some r => .reg r
    | none => .reserved
  else if off < 0x20000 then
    if off + 4 ≤ 0x10000 + bufBytes then .inBuf (off - 0x10000) else .reserved
  else if off < 0x30000 then
    if off + 4 ≤ 0x20000 + bufBytes then .outBuf (off - 0x20000) else .reserved
  else .reserved

/-- The word at offset k of a buffer, byte k in bits 7:0 (R82, R85). -/
def Memory.getWord (m : Memory) (k : Nat) : Word :=
  BitVec.ofNat 32 (uLE [Memory.get m k, Memory.get m (k + 1), Memory.get m (k + 2), Memory.get m (k + 3)])

/-- The word a read of a register returns while IDLE (R33 to R54): CMD and the key registers are write-only. -/
def State.readReg (s : State) : Reg → Word
  | .id => 0x574D0001
  | .bufSize => (BitVec.ofNat 17 s.params.bufBytes).setWidth 32
  | .ctrl => s.ctrlWord
  | .cmd => 0
  | .status => s.statusWord
  | .errCode => s.errCode.setWidth 32
  | .errDetail => s.errDetail.setWidth 32
  | .inLen => s.inLen.setWidth 32
  | .outLen => s.outLen.setWidth 32
  | .hdrLen => s.hdrLen.setWidth 32
  | .hdrVersion => s.hdr.version.setWidth 32
  | .hdrEncType => s.hdr.encType.setWidth 32
  | .hdrFlags => s.hdr.flags.setWidth 32
  | .msgId => s.hdr.msgId
  | .srcNodeLo => s.hdr.srcLo
  | .srcNodeHi => s.hdr.srcHi
  | .dstNodeLo => s.hdr.dstLo
  | .dstNodeHi => s.hdr.dstHi
  | .keyId => s.hdr.keyId.setWidth 32
  | .keyType => s.keys.keyType.setWidth 32
  | .dataKey0 | .dataKey1 | .dataKey2 | .dataKey3 => 0
  | .intKey0 | .intKey1 | .intKey2 | .intKey3 | .intKey4 => 0

/-- A write to CTRL (R36): bit 1 = 1 is a soft reset (R362) and discards the other bits. -/
def State.writeCtrl (s : State) (v : Word) : State :=
  if v.getLsbD 1 then s.resetAll else { s with ctrl := ⟨v.getLsbD 0, v.getLsbD 2⟩ }

/-- An accepted write of v to a register (R33 to R54): reserved bits are discarded, RO registers ignore it. -/
def State.writeReg (s : State) (v : Word) : Reg → State
  | .id | .bufSize | .errCode | .errDetail | .outLen | .hdrLen => s
  | .ctrl => s.writeCtrl v
  | .cmd => s.issue v
  | .status => s.acknowledge v
  | .inLen => { s with inLen := v.setWidth 17 }
  | .hdrVersion => { s with hdr := { s.hdr with version := v.setWidth 4 } }
  | .hdrEncType => { s with hdr := { s.hdr with encType := v.setWidth 4 } }
  | .hdrFlags => { s with hdr := { s.hdr with flags := v.setWidth 16 &&& flagsMask } }
  | .msgId => { s with hdr := { s.hdr with msgId := v } }
  | .srcNodeLo => { s with hdr := { s.hdr with srcLo := v } }
  | .srcNodeHi => { s with hdr := { s.hdr with srcHi := v } }
  | .dstNodeLo => { s with hdr := { s.hdr with dstLo := v } }
  | .dstNodeHi => { s with hdr := { s.hdr with dstHi := v } }
  | .keyId => { s with hdr := { s.hdr with keyId := v.setWidth 16 } }
  | .keyType => { s with keys := { s.keys with keyType := v.setWidth 2 } }
  | .dataKey0 => { s with keys := { s.keys with dataKey0 := v } }
  | .dataKey1 => { s with keys := { s.keys with dataKey1 := v } }
  | .dataKey2 => { s with keys := { s.keys with dataKey2 := v } }
  | .dataKey3 => { s with keys := { s.keys with dataKey3 := v } }
  | .intKey0 => { s with keys := { s.keys with intKey0 := v } }
  | .intKey1 => { s with keys := { s.keys with intKey1 := v } }
  | .intKey2 => { s with keys := { s.keys with intKey2 := v } }
  | .intKey3 => { s with keys := { s.keys with intKey3 := v } }
  | .intKey4 => { s with keys := { s.keys with intKey4 := v } }

/-- The word a legal read of a target returns while IDLE (R85, R56 to R58). -/
def State.readTarget (s : State) : Target → Word
  | .reg r => s.readReg r
  | .inBuf k => Memory.getWord s.inBuf k
  | .outBuf k => Memory.getWord s.outBuf k
  | .reserved => 0

/-- An accepted write of v to a target (R85): OUT_BUF and reserved offsets ignore it. -/
def State.writeTarget (s : State) (v : Word) : Target → State
  | .reg r => s.writeReg v r
  | .inBuf k => { s with inBuf := Memory.setBytes s.inBuf k (leBytes 4 v.toNat) }
  | .outBuf _ => s
  | .reserved => s

/-- The only targets whose read is not 0 while BUSY: ID, BUF_SIZE, CTRL and STATUS (R91). -/
def readableWhileBusy : Target → Bool
  | .reg .id | .reg .bufSize | .reg .ctrl | .reg .status => true
  | _ => false

/-- The only targets whose write is accepted while BUSY: CTRL and STATUS (R36, R39, R93). -/
def writableWhileBusy : Target → Bool
  | .reg .ctrl | .reg .status => true
  | _ => false

/-- Only 32-bit accesses at 4-byte-aligned offsets are legal (R87). -/
def legalAccess (off size : Nat) : Bool := size == 4 && off % 4 == 0

/-- The data word `MemRead(off, size)` returns (R86, R87, R91, R361). -/
def State.memReadValue (s : State) (off size : Nat) : Word :=
  if s.rst then 0
  else if !legalAccess off size then 0
  else if s.isBusy && !readableWhileBusy (targetAt s.params.bufBytes off) then 0
  else s.readTarget (targetAt s.params.bufBytes off)

/-- The WMC after `MemRead(off, size)`: no read has a side effect, but an illegal one sets BUSERR (R87, R90). -/
def State.memReadEffect (s : State) (off size : Nat) : State :=
  if s.rst then s
  else if !legalAccess off size then { s with buserr := true }
  else s

/-- `MemRead(off, size)`: the effect, and the data word on the host's side of the bus (R86). -/
def State.memRead (s : State) (off size : Nat) : State :=
  { s.memReadEffect off size with readData := s.memReadValue off size }

/-- `MemWrite(off, size, v)` (R85 to R87, R93, R361). -/
def State.memWrite (s : State) (off size : Nat) (v : Word) : State :=
  if s.rst then s
  else if !legalAccess off size then { s with buserr := true }
  else if s.isBusy && !writableWhileBusy (targetAt s.params.bufBytes off) then { s with werr := true }
  else s.writeTarget v (targetAt s.params.bufBytes off)

/-- The window offset of a bus address; none outside BASE to BASE + 0x3FFFF (R80). -/
def State.windowOffset (s : State) (addr : Nat) : Option Nat :=
  if s.params.base ≤ addr ∧ addr < s.params.base + Config.windowBytes then some (addr - s.params.base)
  else none

/-- A host bus read of `size` bytes at a bus address (R80, R86). -/
def State.busRead (s : State) (addr size : Nat) : Host.Outcome State Fault Refusal :=
  match s.windowOffset addr with
  | none => .fault .outsideWindow
  | some off => .next (s.memRead off size)

/-- A host bus write of `size` bytes at a bus address (R80, R86). -/
def State.busWrite (s : State) (addr size : Nat) (v : Word) : Host.Outcome State Fault Refusal :=
  match s.windowOffset addr with
  | none => .fault .outsideWindow
  | some off => .next (s.memWrite off size v)

end Sys2Proof.Machine
end

