-- ==== Sys2Proof/Machine/HeaderCodec.lean ====
section
/-! DEFINITION. The Header Codec: ValidateHeader, PackHeader, ParseHeader and the commands PACK_HDR and
UNPACK_HDR (R150 to R165). -/

namespace Sys2Proof.Machine

/-- `ValidateHeader(S)` (R151): the first failing check in the rule's order; the encryption type on success. -/
def validateHeader (S : Snapshot) : Except CmdError EncType :=
  if !versionDefined S.hdr.version then .error .version
  else
    match encTypeOf S.hdr.encType with
    | none => .error .encType
    | some enc =>
      if S.ctrl.strictFlags && flagSet S.flags undefFlags then .error .undefinedFlags
      else if S.src = anyNodeId then .error .anyNodeId
      else if S.src = S.dst then .error .equalNodeIds
      else if flagSet S.flags tunneledData && flagSet S.flags msgCounterSyncReq then .error .tunneledSync
      else if S.hdr.version = 1 ∧ flagSet S.flags tunneledData then .error .v1Tunneled
      else .ok enc

/-- `PackHeader(S)` for the header of the header registers (R154). -/
def packHeader (h : MsgHeader) : Bytes :=
  leBytes 2 (headerWord h.ver h.enc h.flags).toNat ++ leBytes 4 h.msgId.toNat
    ++ (if flagSet h.flags sourceNodeIdPresent then leBytes 8 h.src.toNat else [])
    ++ (if flagSet h.flags destNodeIdPresent then leBytes 8 h.dst.toNat else [])
    ++ (if h.enc = 0 then [] else leBytes 2 h.keyId.toNat)

/-- What ParseHeader returns (R161), with the encryption type its code names. -/
structure Parsed where
  enc : EncType
  hdr : MsgHeader
  len : Nat
  deriving DecidableEq, Repr

/-- The fields of ParseHeader after its checks (R161, R162): a node id that is not on the wire is the snapshot's;
w is the header word of m. -/
def parseFields (S : Snapshot) (m : Bytes) (w : BitVec 16) : MsgHeader :=
  let f := wordFlags w
  let p1 := 6 + srcFieldLen f
  let p2 := p1 + dstFieldLen f
  { ver := wordVersion w
    enc := wordEncType w
    flags := f
    msgId := BitVec.ofNat 32 (uLE (slice m 2 6))
    src := if flagSet f sourceNodeIdPresent then BitVec.ofNat 64 (uLE (slice m 6 14)) else S.src
    dst := if flagSet f destNodeIdPresent then BitVec.ofNat 64 (uLE (slice m p1 (p1 + 8))) else S.dst
    keyId := if wordEncType w = 0 then 0 else BitVec.ofNat 16 (uLE (slice m p2 (p2 + 2))) }

/-- `ParseHeader(S, m)` (R161): it stops at the first failure. -/
def parseHeader (S : Snapshot) (m : Bytes) : Except CmdError Parsed :=
  if m.length < 2 then .error .noHeaderWord
  else
    let w := BitVec.ofNat 16 (uLE (slice m 0 2))
    if !versionDefined (wordVersion w) then .error .version
    else
      match encTypeOf (wordEncType w) with
      | none => .error .encType
      | some enc =>
        if S.ctrl.strictFlags && flagSet (wordFlags w) undefFlags then .error .undefinedFlags
        else if m.length < headerLen (wordFlags w) (wordEncType w) then .error .shortHeader
        else .ok ⟨enc, parseFields S m w, headerLen (wordFlags w) (wordEncType w)⟩

/-- The update list that loads a parsed header into the header registers and its length into HDR_LEN (R165,
R290). -/
def headerWrites (p : Parsed) : List RegWrite :=
  [ .hdrVersion p.hdr.ver, .hdrEncType p.hdr.enc, .hdrFlags p.hdr.flags, .msgId p.hdr.msgId,
    .srcNodeLo (p.hdr.src.setWidth 32), .srcNodeHi (p.hdr.src.extractLsb' 32 32),
    .dstNodeLo (p.hdr.dst.setWidth 32), .dstNodeHi (p.hdr.dst.extractLsb' 32 32),
    .keyId p.hdr.keyId, .hdrLen (BitVec.ofNat 5 p.len) ]

/-- `Exec_PACK_HDR(S)` (R160). -/
def packHdrResult (S : Snapshot) : CmdResult :=
  match validateHeader S with
  | .error e => .error e
  | .ok _ =>
    let b := packHeader S.header
    .ok ⟨.bytes b, [.hdrLen (BitVec.ofNat 5 b.length)]⟩

/-- PACK_HDR (R160, R122). -/
def execPackHdr (s : State) : Host.Outcome State Fault Refusal :=
  .next (s.complete (packHdrResult s.operands))

/-- `Exec_UNPACK_HDR(S)` (R165). -/
def unpackHdrResult (bufBytes : Nat) (S : Snapshot) : CmdResult :=
  if bufBytes < S.inLen.toNat then .error .inputTooLong
  else
    match parseHeader S S.input with
    | .error e => .error e
    | .ok p => .ok ⟨.bytes [], headerWrites p⟩

/-- UNPACK_HDR (R165, R122). -/
def execUnpackHdr (s : State) : Host.Outcome State Fault Refusal :=
  .next (s.complete (unpackHdrResult s.params.bufBytes s.operands))

end Sys2Proof.Machine
end

