-- ==== Sys2Proof/Machine/Aes.lean ====
section
/-! DEFINITION. AES-128, forward cipher only (R200 to R207), and counter mode (R215). -/

namespace Sys2Proof.Machine

/-- One column of the 4x4 array of bytes (R201): row r is the field `br`. A key schedule word w[j] has the
same shape: w[j][r] is byte r (R204). -/
structure Col where
  b0 : Byte
  b1 : Byte
  b2 : Byte
  b3 : Byte
  deriving DecidableEq, Repr

/-- The 4x4 array s[r][c] by its columns c = 0..3 (R201). A round key (four words of the schedule) has the
same shape (R204). -/
structure Block where
  c0 : Col
  c1 : Col
  c2 : Col
  c3 : Col
  deriving DecidableEq, Repr

/-- The input mapping s[r][c] = B[r + 4c] (R201). -/
def blockOfBytes (s : Bytes) : Block where
  c0 := ⟨s.getD 0 0, s.getD 1 0, s.getD 2 0, s.getD 3 0⟩
  c1 := ⟨s.getD 4 0, s.getD 5 0, s.getD 6 0, s.getD 7 0⟩
  c2 := ⟨s.getD 8 0, s.getD 9 0, s.getD 10 0, s.getD 11 0⟩
  c3 := ⟨s.getD 12 0, s.getD 13 0, s.getD 14 0, s.getD 15 0⟩

/-- The bytes of one column, row 0 first. -/
def bytesOfCol (c : Col) : Bytes := [c.b0, c.b1, c.b2, c.b3]

/-- The output mapping: byte r + 4c of the result is s[r][c] (R201). -/
def bytesOfBlock (s : Block) : Bytes :=
  bytesOfCol s.c0 ++ bytesOfCol s.c1 ++ bytesOfCol s.c2 ++ bytesOfCol s.c3

/-- `xtime(a)`: multiplication by x in GF(2^8) modulo 0x11B (R202). -/
def xtime (a : Byte) : Byte := (a <<< 1) ^^^ (if a.getLsbD 7 then 0x1B else 0)

/-- `mul(a, 2)` (R202). -/
def mul2 (a : Byte) : Byte := xtime a

/-- `mul(a, 3)` (R202). -/
def mul3 (a : Byte) : Byte := xtime a ^^^ a

/-- The table of R203, row by row: row = high nibble, column = low nibble. -/
def sboxRows : List (List Byte) := [
  [0x63, 0x7c, 0x77, 0x7b, 0xf2, 0x6b, 0x6f, 0xc5, 0x30, 0x01, 0x67, 0x2b, 0xfe, 0xd7, 0xab, 0x76],
  [0xca, 0x82, 0xc9, 0x7d, 0xfa, 0x59, 0x47, 0xf0, 0xad, 0xd4, 0xa2, 0xaf, 0x9c, 0xa4, 0x72, 0xc0],
  [0xb7, 0xfd, 0x93, 0x26, 0x36, 0x3f, 0xf7, 0xcc, 0x34, 0xa5, 0xe5, 0xf1, 0x71, 0xd8, 0x31, 0x15],
  [0x04, 0xc7, 0x23, 0xc3, 0x18, 0x96, 0x05, 0x9a, 0x07, 0x12, 0x80, 0xe2, 0xeb, 0x27, 0xb2, 0x75],
  [0x09, 0x83, 0x2c, 0x1a, 0x1b, 0x6e, 0x5a, 0xa0, 0x52, 0x3b, 0xd6, 0xb3, 0x29, 0xe3, 0x2f, 0x84],
  [0x53, 0xd1, 0x00, 0xed, 0x20, 0xfc, 0xb1, 0x5b, 0x6a, 0xcb, 0xbe, 0x39, 0x4a, 0x4c, 0x58, 0xcf],
  [0xd0, 0xef, 0xaa, 0xfb, 0x43, 0x4d, 0x33, 0x85, 0x45, 0xf9, 0x02, 0x7f, 0x50, 0x3c, 0x9f, 0xa8],
  [0x51, 0xa3, 0x40, 0x8f, 0x92, 0x9d, 0x38, 0xf5, 0xbc, 0xb6, 0xda, 0x21, 0x10, 0xff, 0xf3, 0xd2],
  [0xcd, 0x0c, 0x13, 0xec, 0x5f, 0x97, 0x44, 0x17, 0xc4, 0xa7, 0x7e, 0x3d, 0x64, 0x5d, 0x19, 0x73],
  [0x60, 0x81, 0x4f, 0xdc, 0x22, 0x2a, 0x90, 0x88, 0x46, 0xee, 0xb8, 0x14, 0xde, 0x5e, 0x0b, 0xdb],
  [0xe0, 0x32, 0x3a, 0x0a, 0x49, 0x06, 0x24, 0x5c, 0xc2, 0xd3, 0xac, 0x62, 0x91, 0x95, 0xe4, 0x79],
  [0xe7, 0xc8, 0x37, 0x6d, 0x8d, 0xd5, 0x4e, 0xa9, 0x6c, 0x56, 0xf4, 0xea, 0x65, 0x7a, 0xae, 0x08],
  [0xba, 0x78, 0x25, 0x2e, 0x1c, 0xa6, 0xb4, 0xc6, 0xe8, 0xdd, 0x74, 0x1f, 0x4b, 0xbd, 0x8b, 0x8a],
  [0x70, 0x3e, 0xb5, 0x66, 0x48, 0x03, 0xf6, 0x0e, 0x61, 0x35, 0x57, 0xb9, 0x86, 0xc1, 0x1d, 0x9e],
  [0xe1, 0xf8, 0x98, 0x11, 0x69, 0xd9, 0x8e, 0x94, 0x9b, 0x1e, 0x87, 0xe9, 0xce, 0x55, 0x28, 0xdf],
  [0x8c, 0xa1, 0x89, 0x0d, 0xbf, 0xe6, 0x42, 0x68, 0x41, 0x99, 0x2d, 0x0f, 0xb0, 0x54, 0xbb, 0x16]]

/-- `SBox[v]` (R203). -/
def sbox (v : Byte) : Byte := (sboxRows.getD (v.toNat / 16) []).getD (v.toNat % 16) 0

/-- SubBytes or SubWord on one column or word (R204, R205). -/
def subCol (c : Col) : Col := ⟨sbox c.b0, sbox c.b1, sbox c.b2, sbox c.b3⟩

/-- SubBytes (R204). -/
def subBytes (s : Block) : Block := ⟨subCol s.c0, subCol s.c1, subCol s.c2, subCol s.c3⟩

/-- ShiftRows: s[r][c] <- s[r][(c + r) mod 4] (R204). -/
def shiftRows (s : Block) : Block where
  c0 := ⟨s.c0.b0, s.c1.b1, s.c2.b2, s.c3.b3⟩
  c1 := ⟨s.c1.b0, s.c2.b1, s.c3.b2, s.c0.b3⟩
  c2 := ⟨s.c2.b0, s.c3.b1, s.c0.b2, s.c1.b3⟩
  c3 := ⟨s.c3.b0, s.c0.b1, s.c1.b2, s.c2.b3⟩

/-- MixColumns on one column (R204). -/
def mixCol (a : Col) : Col where
  b0 := mul2 a.b0 ^^^ mul3 a.b1 ^^^ a.b2 ^^^ a.b3
  b1 := a.b0 ^^^ mul2 a.b1 ^^^ mul3 a.b2 ^^^ a.b3
  b2 := a.b0 ^^^ a.b1 ^^^ mul2 a.b2 ^^^ mul3 a.b3
  b3 := mul3 a.b0 ^^^ a.b1 ^^^ a.b2 ^^^ mul2 a.b3

/-- MixColumns (R204). -/
def mixColumns (s : Block) : Block := ⟨mixCol s.c0, mixCol s.c1, mixCol s.c2, mixCol s.c3⟩

/-- Exclusive or of two columns or words. -/
def xorCol (a b : Col) : Col := ⟨a.b0 ^^^ b.b0, a.b1 ^^^ b.b1, a.b2 ^^^ b.b2, a.b3 ^^^ b.b3⟩

/-- AddRoundKey with the round key k, whose column c is w[4i + c] (R204). -/
def addRoundKey (k s : Block) : Block :=
  ⟨xorCol s.c0 k.c0, xorCol s.c1 k.c1, xorCol s.c2 k.c2, xorCol s.c3 k.c3⟩

/-- RotWord (R205). -/
def rotWord (t : Col) : Col := ⟨t.b1, t.b2, t.b3, t.b0⟩

/-- One turn of the key expansion of R205: from w[4i-4..4i) to w[4i..4i+4), with rc = Rcon[i]. -/
def nextRoundKey (rc : Byte) (k : Block) : Block :=
  let t := subCol (rotWord k.c3)
  let w0 := xorCol k.c0 ⟨t.b0 ^^^ rc, t.b1, t.b2, t.b3⟩
  let w1 := xorCol k.c1 w0
  let w2 := xorCol k.c2 w1
  ⟨w0, w1, w2, xorCol k.c3 w2⟩

/-- Rcon[1..10] (R205). -/
def rcons : List Byte := [0x01, 0x02, 0x04, 0x08, 0x10, 0x20, 0x40, 0x80, 0x1b, 0x36]

/-- The round keys after k, one for each round constant: with all of `rcons` these are w[4..43] (R205). -/
def roundKeys : List Byte → Block → List Block
  | [], _ => []
  | rc :: rcs, k => nextRoundKey rc k :: roundKeys rcs (nextRoundKey rc k)

/-- The rounds of R206 after AddRoundKey(0): every round key but the last has MixColumns before it. -/
def rounds : List Block → Block → Block
  | [], s => s
  | [k], s => addRoundKey k (shiftRows (subBytes s))
  | k :: ks, s => rounds ks (addRoundKey k (mixColumns (shiftRows (subBytes s))))

/-- `AES128(K, B)` (R200, R206). -/
def aes128 (key block : Bytes) : Bytes :=
  let k := blockOfBytes key
  bytesOfBlock (rounds (roundKeys rcons k) (addRoundKey k (blockOfBytes block)))

/-- `ceil(n / 16)`, the number of 16-byte blocks of n bytes (R215, R251). -/
def blockCount (n : Nat) : Nat := (n + 15) / 16

/-- Block j of the keystream: AES128(K, BE128((uBE(C0) + j) mod 2^128)) (R215). -/
def keystreamBlock (key c0 : Bytes) (j : Nat) : Bytes :=
  aes128 key (beBytes 16 ((uBE c0 + j) % 2 ^ 128))

/-- The first n blocks of the keystream, in order (R215). -/
def keystream (key c0 : Bytes) (n : Nat) : Bytes := (List.range n).flatMap (keystreamBlock key c0)

/-- `AES128CTR(K, C0, X)` (R215): encryption and decryption are this one function. -/
def aes128Ctr (key c0 x : Bytes) : Bytes :=
  xorBytes x (trunc (keystream key c0 (blockCount x.length)) x.length)

end Sys2Proof.Machine
end

