-- ==== Sys2Proof/Machine/Eax.lean ====
section
/-! DEFINITION. CMAC and OMAC (R250 to R252) and the EAX mode (R254 to R256). -/

namespace Sys2Proof.Machine

/-- `dbl(X)`: doubling of a 16-byte block in GF(2^128) (R250). -/
def dbl (x : Bytes) : Bytes :=
  let y := beBytes 16 (2 * uBE x % 2 ^ 128)
  if (x.getD 0 0).getLsbD 7 then xorBytes y (zeros 15 ++ [0x87]) else y

/-- The subkey K1 = dbl(L) with L = AES128(K, zeros(16)) (R251). -/
def cmacK1 (key : Bytes) : Bytes := dbl (aes128 key (zeros 16))

/-- The subkey K2 = dbl(K1) (R251). -/
def cmacK2 (key : Bytes) : Bytes := dbl (cmacK1 key)

/-- The last block of CMAC: a full block with K1, or the padded rest R with K2. `r` is the last n-th part
of the message; an empty message has an empty r and so takes K2 (R251). -/
def cmacLast (key r : Bytes) : Bytes :=
  if r.length = 16 then xorBytes r (cmacK1 key)
  else xorBytes (r ++ [0x80] ++ zeros (15 - r.length)) (cmacK2 key)

/-- `CMAC(K, M)` (R251). -/
def cmac (key m : Bytes) : Bytes :=
  let n := max 1 (blockCount m.length)
  let full := (List.range (n - 1)).map fun i => slice m (16 * i) (16 * i + 16)
  let x := full.foldl (fun x mi => aes128 key (xorBytes x mi)) (zeros 16)
  aes128 key (xorBytes x (cmacLast key (m.drop (16 * (n - 1)))))

/-- `OMAC(K, t, M)`: CMAC over a block with t in its last byte, then M (R252). -/
def omac (key : Bytes) (t : Byte) (m : Bytes) : Bytes := cmac key (zeros 15 ++ [t] ++ m)

/-- The full 16-byte tag T = Nt XOR Ct XOR Ht of nonce, associated data and ciphertext (R254, R255). -/
def eaxTag (key nonce aad c : Bytes) : Bytes :=
  xorBytes (xorBytes (omac key 0 nonce) (omac key 2 c)) (omac key 1 aad)

/-- `EAXEnc(K, N, A, M, tl)`: the ciphertext and the first tl bytes of the tag (R254). -/
def eaxEnc (key nonce aad m : Bytes) (tl : Nat) : Bytes × Bytes :=
  let c := aes128Ctr key (omac key 0 nonce) m
  (c, trunc (eaxTag key nonce aad c) tl)

/-- `EAXDec(K, N, A, C, tag)`: the tag is verified before anything is decrypted; none is FAIL (R255). -/
def eaxDec (key nonce aad c tag : Bytes) : Option Bytes :=
  if ctEq (trunc (eaxTag key nonce aad c) tag.length) tag
  then some (aes128Ctr key (omac key 0 nonce) c)
  else none

end Sys2Proof.Machine
end

