-- ==== Sys2Proof/Machine/NonceCounter.lean ====
section
/-! DEFINITION. Nonce/Counter Derivation, DERIVE_CTR and DERIVE_NONCE (R190 to R194). -/

namespace Sys2Proof.Machine

/-- `CtrInit(h) = BE64(h.src) ‖ BE32(h.msgId) ‖ BE32(0)` (R190). -/
def ctrInit (h : MsgHeader) : Bytes := beBytes 8 h.src.toNat ++ beBytes 4 h.msgId.toNat ++ beBytes 4 0

/-- `EaxNonce(h) = BE64(h.src) ‖ BE32(h.msgId)` (R191). -/
def eaxNonce (h : MsgHeader) : Bytes := beBytes 8 h.src.toNat ++ beBytes 4 h.msgId.toNat

/-- `Exec_DERIVE_CTR(S)` (R193). -/
def deriveCtrResult (S : Snapshot) : CmdResult := .ok ⟨.bytes (ctrInit S.header), []⟩

/-- DERIVE_CTR (R193, R122). -/
def execDeriveCtr (s : State) : Host.Outcome State Fault Refusal :=
  .next (s.complete (deriveCtrResult s.operands))

/-- `Exec_DERIVE_NONCE(S)` (R194). -/
def deriveNonceResult (S : Snapshot) : CmdResult := .ok ⟨.bytes (eaxNonce S.header), []⟩

/-- DERIVE_NONCE (R194, R122). -/
def execDeriveNonce (s : State) : Host.Outcome State Fault Refusal :=
  .next (s.complete (deriveNonceResult s.operands))

end Sys2Proof.Machine
end

