-- ==== Sys2Proof/Machine/PseudoHeader.lean ====
section
/-! DEFINITION. The Pseudo-Header Builder and BUILD_PSEUDO (R180 to R184). -/

namespace Sys2Proof.Machine

/-- `LegacyPseudoHeaderVariant(h)`: V1 with AES128CTRSHA1 (R181). -/
def legacyPseudoHeaderVariant (h : MsgHeader) : Bool := h.ver == 1 && h.enc == 1

/-- The masked header word: DestNodeIdPresent, SourceNodeIdPresent and MsgCounterSyncReq cleared (R182). -/
def maskedHeaderWord (w : BitVec 16) : BitVec 16 :=
  w &&& ~~~(destNodeIdPresent ||| sourceNodeIdPresent ||| msgCounterSyncReq)

/-- `PseudoHeader(h)`: 16 bytes for the legacy variant, else 22 (R180). -/
def pseudoHeader (h : MsgHeader) : Bytes :=
  leBytes 8 h.src.toNat ++ leBytes 8 h.dst.toNat
    ++ (if legacyPseudoHeaderVariant h then []
        else leBytes 2 (maskedHeaderWord (headerWord h.ver h.enc h.flags)).toNat ++ leBytes 4 h.msgId.toNat)

/-- `Exec_BUILD_PSEUDO(S)` (R184): no validation is made. -/
def buildPseudoResult (S : Snapshot) : CmdResult := .ok ⟨.bytes (pseudoHeader S.header), []⟩

/-- BUILD_PSEUDO (R184, R122). -/
def execBuildPseudo (s : State) : Host.Outcome State Fault Refusal :=
  .next (s.complete (buildPseudoResult s.operands))

end Sys2Proof.Machine
end

