-- ==== Sys2Proof/Machine/Sha1.lean ====
section
/-! DEFINITION. SHA-1 (R220) and HMAC-SHA1 with the 20-byte integrity key (R225). -/

namespace Sys2Proof.Machine

/-- The five chaining or working words: H0..H4, or a..e (R220). -/
structure Sha1Words where
  a : Word
  b : Word
  c : Word
  d : Word
  e : Word
  deriving DecidableEq, Repr

/-- The initial H0..H4 (R220). -/
def sha1Init : Sha1Words := ⟨0x67452301, 0xEFCDAB89, 0x98BADCFE, 0x10325476, 0xC3D2E1F0⟩

/-- The padded message P (R220): 0x80, zero bytes to 56 mod 64, the bit length as 8 big-endian bytes. The
number of zero bytes is (55 - len) mod 64, written without negative numbers. -/
def sha1Pad (m : Bytes) : Bytes :=
  m ++ [0x80] ++ zeros ((119 - m.length % 64) % 64) ++ beBytes 8 (8 * m.length)

/-- W[0..15] of a 64-byte block, NEWEST FIRST: W[15] is the head (R220). -/
def sha1Words (q : Bytes) : List Word :=
  ((List.range 16).map fun t => BitVec.ofNat 32 (uBE (slice q (4 * t) (4 * t + 4)))).reverse

/-- n more words of the schedule on a newest-first list: W[t] = rotl(W[t-3] ^ W[t-8] ^ W[t-14] ^ W[t-16], 1)
(R220). -/
def sha1Extend : Nat → List Word → List Word
  | 0, w => w
  | n + 1, w =>
    sha1Extend n
      ((w.getD 2 0 ^^^ w.getD 7 0 ^^^ w.getD 13 0 ^^^ w.getD 15 0).rotateLeft 1 :: w)

/-- W[0..79] of a block, oldest first (R220). -/
def sha1Schedule (q : Bytes) : List Word := (sha1Extend 64 (sha1Words q)).reverse

/-- The round function f and the constant k of round t (R220). -/
def sha1Fk (t : Nat) (b c d : Word) : Word × Word :=
  if t ≤ 19 then ((b &&& c) ||| (~~~b &&& d), 0x5A827999)
  else if t ≤ 39 then (b ^^^ c ^^^ d, 0x6ED9EBA1)
  else if t ≤ 59 then ((b &&& c) ||| (b &&& d) ||| (c &&& d), 0x8F1BBCDC)
  else (b ^^^ c ^^^ d, 0xCA62C1D6)

/-- One round (R220). -/
def sha1Round (t : Nat) (w : Word) (s : Sha1Words) : Sha1Words :=
  let fk := sha1Fk t s.b s.c s.d
  ⟨s.a.rotateLeft 5 + fk.1 + s.e + fk.2 + w, s.a, s.b.rotateLeft 30, s.c, s.d⟩

/-- The rounds t, t + 1, ... over the remaining schedule (R220). -/
def sha1Rounds : Nat → List Word → Sha1Words → Sha1Words
  | _, [], s => s
  | t, w :: ws, s => sha1Rounds (t + 1) ws (sha1Round t w s)

/-- One block: the 80 rounds and the additions to H0..H4 (R220). -/
def sha1Block (h : Sha1Words) (q : Bytes) : Sha1Words :=
  let r := sha1Rounds 0 (sha1Schedule q) h
  ⟨h.a + r.a, h.b + r.b, h.c + r.c, h.d + r.d, h.e + r.e⟩

/-- `SHA1(M)`: 20 bytes (R220). -/
def sha1 (m : Bytes) : Bytes :=
  let p := sha1Pad m
  let blocks := (List.range (p.length / 64)).map fun i => slice p (64 * i) (64 * i + 64)
  let h := blocks.foldl sha1Block sha1Init
  beBytes 4 h.a.toNat ++ beBytes 4 h.b.toNat ++ beBytes 4 h.c.toNat ++ beBytes 4 h.d.toNat
    ++ beBytes 4 h.e.toNat

/-- `HMACSHA1(K, M)` for a 20-byte K: K0 = K and 44 zero bytes, ipad 0x36, opad 0x5C (R225). -/
def hmacSha1 (key m : Bytes) : Bytes :=
  let k0 := key ++ zeros 44
  sha1 (xorBytes k0 (List.replicate 64 0x5C)
    ++ sha1 (xorBytes k0 (List.replicate 64 0x36) ++ m))

end Sys2Proof.Machine
end

