-- ==== Sys2Proof/Machine/Transforms.lean ====
section
/-! DEFINITION. The Cipher Suite Transforms: CTR+SHA1 (R230, R231), EAX (R260, R261), and the choice among them
by the encryption type alone (R280). -/

namespace Sys2Proof.Machine

/-- `SealCtrSha1(h, DK, IK, payload)`: authenticate, then encrypt payload and tag (R230). -/
def sealCtrSha1 (h : MsgHeader) (dk ik payload : Bytes) : Bytes :=
  aes128Ctr dk (ctrInit h) (payload ++ hmacSha1 ik (pseudoHeader h ++ payload))

/-- `OpenCtrSha1(h, DK, IK, region)`: decrypt the whole region, then check the last 20 bytes (R231). -/
def openCtrSha1 (h : MsgHeader) (dk ik region : Bytes) : Except CmdError Bytes :=
  let x := aes128Ctr dk (ctrInit h) region
  let p := slice x 0 (x.length - 20)
  let t := slice x (x.length - 20) x.length
  if ctEq (hmacSha1 ik (pseudoHeader h ++ p)) t then .ok p else .error .integrity

/-- `SealEax(h, DK, payload, tl)` (R260). -/
def sealEax (h : MsgHeader) (dk payload : Bytes) (tl : Nat) : Bytes :=
  let r := eaxEnc dk (eaxNonce h) (pseudoHeader h) payload tl
  r.1 ++ r.2

/-- `OpenEax(h, DK, region, tl)`: split, verify, then decrypt (R261). -/
def openEax (h : MsgHeader) (dk region : Bytes) (tl : Nat) : Except CmdError Bytes :=
  let c := slice region 0 (region.length - tl)
  let tag := slice region (region.length - tl) region.length
  match eaxDec dk (eaxNonce h) (pseudoHeader h) c tag with
  | none => .error .authentication
  | some p => .ok p

/-- `Seal(enc, h, S, payload)` (R280). -/
def sealRegion (enc : EncType) (h : MsgHeader) (S : Snapshot) (payload : Bytes) : Bytes :=
  match enc with
  | .none => payload
  | .aes128CtrSha1 => sealCtrSha1 h S.dataKey S.intKey payload
  | .aes128Eax64 => sealEax h S.dataKey payload 8
  | .aes128Eax128 => sealEax h S.dataKey payload 16

/-- `Open(enc, h, S, region)` (R280). -/
def openRegion (enc : EncType) (h : MsgHeader) (S : Snapshot) (region : Bytes) : Except CmdError Bytes :=
  match enc with
  | .none => .ok region
  | .aes128CtrSha1 => openCtrSha1 h S.dataKey S.intKey region
  | .aes128Eax64 => openEax h S.dataKey region 8
  | .aes128Eax128 => openEax h S.dataKey region 16

end Sys2Proof.Machine
end

