-- ==== Sys2Proof/Machine/Facade.lean ====
section
/-! DEFINITION. The Message Codec Facade: NOP, ENCODE, DECODE and ZEROIZE (R281 to R305). -/

namespace Sys2Proof.Machine

/-- `Exec_NOP(S) = Ok(KEEP, [])` (R281). -/
def nopResult : CmdResult := .ok ⟨.keep, []⟩

/-- NOP (R281, R122). -/
def execNop (s : State) : Host.Outcome State Fault Refusal := .next (s.complete nopResult)

/-- `Exec_ENCODE(S)` (R282): header, key variant, capacity, then the transform (R283, R286). -/
def encodeResult (bufBytes : Nat) (S : Snapshot) : CmdResult :=
  match validateHeader S with
  | .error e => .error e
  | .ok enc =>
    if S.keys.keyType ≠ keyNeeded enc then .error .keyVariant
    else if bufBytes < S.inLen.toNat then .error .inputCapacity
    else
      let hdr := packHeader S.header
      let payload := S.input
      if bufBytes < hdr.length + payload.length + tagLen enc then .error .outputCapacity
      else
        .ok ⟨.bytes (hdr ++ sealRegion enc S.header S payload), [.hdrLen (BitVec.ofNat 5 hdr.length)]⟩

/-- ENCODE (R282, R122): the keys are cleared in both outcomes (R55). -/
def execEncode (s : State) : Host.Outcome State Fault Refusal :=
  .next (s.complete (encodeResult s.params.bufBytes s.operands)).clearKeys

/-- `Exec_DECODE(S)` (R290): IN_LEN, parse, key variant, region length, then the transform (R291). -/
def decodeResult (bufBytes : Nat) (S : Snapshot) : CmdResult :=
  if bufBytes < S.inLen.toNat then .error .inputTooLong
  else
    let m := S.input
    match parseHeader S m with
    | .error e => .error e
    | .ok p =>
      if S.keys.keyType ≠ keyNeeded p.enc then .error .keyVariant
      else
        let region := slice m p.len m.length
        if region.length < tagLen p.enc then .error .shortRegion
        else
          match openRegion p.enc p.hdr S region with
          | .error e => .error e
          | .ok payload => .ok ⟨.bytes payload, headerWrites p⟩

/-- DECODE (R290, R122): the keys are cleared in both outcomes (R55). -/
def execDecode (s : State) : Host.Outcome State Fault Refusal :=
  .next (s.complete (decodeResult s.params.bufBytes s.operands)).clearKeys

/-- `Exec_ZEROIZE(S)` (R305). -/
def zeroizeResult : CmdResult :=
  .ok ⟨.bytes [], [.keysZero, .inBufZero, .inLenZero, .hdrLen 0]⟩

/-- ZEROIZE (R305, R122). -/
def execZeroize (s : State) : Host.Outcome State Fault Refusal := .next (s.complete zeroizeResult)

end Sys2Proof.Machine
end

