-- ==== Sys2Proof/Machine/Dispatch.lean ====
section
/-! DEFINITION. The dispatch of a decoded command to its meaning. -/

namespace Sys2Proof.Machine

def exec (i : Instr) (s : State) : Host.Outcome State Fault Refusal :=
  match i with
  | .nop => Sys2Proof.Machine.execNop s
  | .encode => Sys2Proof.Machine.execEncode s
  | .decode => Sys2Proof.Machine.execDecode s
  | .packHdr => Sys2Proof.Machine.execPackHdr s
  | .unpackHdr => Sys2Proof.Machine.execUnpackHdr s
  | .buildPseudo => Sys2Proof.Machine.execBuildPseudo s
  | .deriveCtr => Sys2Proof.Machine.execDeriveCtr s
  | .deriveNonce => Sys2Proof.Machine.execDeriveNonce s
  | .zeroize => Sys2Proof.Machine.execZeroize s

end Sys2Proof.Machine
end

