-- ==== Sys2Proof/Machine/Step.lean ====
section
/-! DEFINITION. One step of the system (R18, R92, R333): the event at the head of the schedule, which is one host
bus transaction, one level of the rst input or one turn of the engine; the engine alone when nothing is scheduled. -/

namespace Sys2Proof.Machine

/-- The engine's turn: the completion of the running command (R122), of an illegal word too (R113). While IDLE, or
while rst = 1, the engine has no step and nothing changes (R18, R361). -/
def engineTurn (s : State) : Host.Outcome State Fault Refusal :=
  match s.fetch with
  | none => .next s
  | some w =>
    match decode w with
    | .ok i => exec i s
    | .error why => .next (s.completeIllegal why)

/-- One step (R92). -/
def step (s : State) : Host.Outcome State Fault Refusal :=
  match s.script with
  | [] => engineTurn s
  | .engine :: rest => engineTurn { s with script := rest }
  | .read addr size :: rest => { s with script := rest }.busRead addr size
  | .write addr size v :: rest => { s with script := rest }.busWrite addr size v
  | .rst level :: rest => .next ({ s with script := rest }.driveRst level)

/-- s with the command of the low nbits of w as the running command, issued from the registers of s as an
accepted CMD write issues it (R120), rst released, and the engine's turn next: step then completes it. -/
def State.withFetchWord (s : State) (nbits w : Nat) : State :=
  { s.issue (BitVec.ofNat 32 (w % 2 ^ nbits)) with rst := false, script := .engine :: s.script }

end Sys2Proof.Machine
end

