-- ==== Sys2Proof/Safety.lean ====
section
/-! DEFINITION. What holds of every state a run reaches (State.Inv), and which schedules cannot end in a fault. -/

namespace Sys2Proof.Machine

/-- The invariant of the WMC. Each field cites the rules that give it. -/
structure State.Inv (s : State) : Prop where
  /-- BASE and BUF_BYTES are legal (R8). -/
  params : s.params.wf = true
  /-- IN_BUF is in canonical form and holds BUF_BYTES bytes (R57). -/
  inBufWf : Memory.wf s.inBuf
  inBufWithin : Memory.within s.params.bufBytes s.inBuf
  /-- OUT_BUF is in canonical form; every byte at and beyond OUT_LEN is 0x00 (R58). -/
  outBufWf : Memory.wf s.outBuf
  outBufWithin : Memory.within s.outLen.toNat s.outBuf
  /-- OUT_LEN is at most BUF_BYTES (R121). -/
  outLenFits : s.outLen.toNat ≤ s.params.bufBytes
  /-- HDR_FLAGS holds no bit outside 0x0F0F (R47). -/
  flagsMasked : s.hdr.flags &&& flagsMask = s.hdr.flags
  /-- HDR_LEN is 0 or one of the six header lengths (R44, R134). -/
  hdrLenLegal : s.hdrLen.toNat ∈ [0, 6, 8, 14, 16, 22, 24]
  /-- ERR_CODE and ERR_DETAIL are 0, 0 or a row of R321. -/
  errorPair : (s.errCode = 0 ∧ s.errDetail = 0) ∨ ∃ e, s.errCode = errorCode e ∧ s.errDetail = errorDetail e
  /-- After an error completion OUT_LEN = 0 and OUT_BUF is all zero (R43, R122). -/
  errorHidesOutput : s.errCode ≠ 0 → s.outLen = 0 ∧ s.outBuf = []
  /-- BUSY and DONE are never both 1 (R38). -/
  notBusyAndDone : s.isBusy = true → s.done = false
  /-- While a command runs, its operands in the registers and IN_BUF are those of its snapshot (R123). -/
  snapshotCurrent : ∀ S, s.phase = .busy S →
    S.inLen = s.inLen ∧ S.hdr = s.hdr ∧ S.keys = s.keys ∧ S.inBuf = s.inBuf
  /-- While rst = 1, every piece of state holds its reset value (R361). -/
  rstHolds : s.rst = true → s = s.resetAll

/-- A scheduled bus access is inside the window (R80); the other events are no bus accesses. -/
def Event.inWindow (p : Params) : Event → Bool
  | .read addr _ => p.base ≤ addr && addr < p.base + Config.windowBytes
  | .write addr _ _ => p.base ≤ addr && addr < p.base + Config.windowBytes
  | .rst _ => true
  | .engine => true

/-- The schedules that address the window only: no step of such a run faults. -/
def State.scriptInWindow (s : State) : Bool := s.script.all (Event.inWindow s.params)

end Sys2Proof.Machine
end

