-- ==== Sys2Proof/Certificates/Slice0/Obligations.lean ====
section
/-! DEFINITION. The statements for the provers. The helpers of Sys2Proof.Claims restate the spec's layouts and check
orders in plain numbers, independently of the functions of Machine/ that they are compared with. -/

namespace Sys2Proof.Claims

open Sys2Proof.Machine

/-- Byte j of a number, byte 0 the least significant. -/
def byteOf (v j : Nat) : Byte := BitVec.ofNat 8 (v / 256 ^ j)

/-- The n bytes of a number, least significant first. -/
def lowFirst (n v : Nat) : Bytes := (List.range n).map (byteOf v)

/-- The n bytes of a number, most significant first. -/
def highFirst (n v : Nat) : Bytes := (List.range n).map fun j => byteOf v (n - 1 - j)

/-- The number of the len bytes of m at offset off, least significant first. -/
def wireField (m : Bytes) (off len : Nat) : Nat := uLE ((m.drop off).take len)

/-- A message header as plain numbers. -/
structure Hdr where
  ver : Nat
  enc : Nat
  flags : Nat
  msgId : Nat
  src : Nat
  dst : Nat
  keyId : Nat

/-- The header of the header registers (R138). -/
def regHdr (S : Snapshot) : Hdr where
  ver := S.hdr.version.toNat
  enc := S.hdr.encType.toNat
  flags := S.hdr.flags.toNat / 256 % 16 * 256 + S.hdr.flags.toNat % 16
  msgId := S.hdr.msgId.toNat
  src := S.hdr.srcHi.toNat * 2 ^ 32 + S.hdr.srcLo.toNat
  dst := S.hdr.dstHi.toNat * 2 ^ 32 + S.hdr.dstLo.toNat
  keyId := S.hdr.keyId.toNat

/-- DestNodeIdPresent (bit 8 of the header word). -/
def Hdr.hasDst (h : Hdr) : Bool := h.flags.testBit 8

/-- SourceNodeIdPresent (bit 9). -/
def Hdr.hasSrc (h : Hdr) : Bool := h.flags.testBit 9

/-- TunneledData (bit 10). -/
def Hdr.tunneled (h : Hdr) : Bool := h.flags.testBit 10

/-- MsgCounterSyncReq (bit 11). -/
def Hdr.syncReq (h : Hdr) : Bool := h.flags.testBit 11

/-- The header length of R134. -/
def Hdr.len (h : Hdr) : Nat :=
  6 + (if h.hasSrc then 8 else 0) + (if h.hasDst then 8 else 0) + (if h.enc = 0 then 0 else 2)

/-- The unencrypted header region by the table of R134 and the header word of R130. -/
def Hdr.bytes (h : Hdr) : Bytes :=
  lowFirst 2 (h.ver * 4096 + h.enc * 16 + h.flags) ++ lowFirst 4 h.msgId
    ++ (if h.hasSrc then lowFirst 8 h.src else []) ++ (if h.hasDst then lowFirst 8 h.dst else [])
    ++ (if h.enc = 0 then [] else lowFirst 2 h.keyId)

/-- The pseudo-header of R180, with the masked word of R182: version, type, TunneledData and flag bits 0-3. -/
def Hdr.pseudo (h : Hdr) : Bytes :=
  lowFirst 8 h.src ++ lowFirst 8 h.dst
    ++ (if h.ver = 1 ∧ h.enc = 1 then []
        else
          lowFirst 2 (h.ver * 4096 + (if h.tunneled then 1024 else 0) + h.enc * 16 + h.flags % 16)
            ++ lowFirst 4 h.msgId)

/-- The initial counter block of R190. -/
def Hdr.ctr (h : Hdr) : Bytes := highFirst 8 h.src ++ highFirst 4 h.msgId ++ [0, 0, 0, 0]

/-- The EAX nonce of R191. -/
def Hdr.nonce (h : Hdr) : Bytes := highFirst 8 h.src ++ highFirst 4 h.msgId

/-- The tag length of a type code 0 to 3 (R133). -/
def tagLenOf (enc : Nat) : Nat := if enc = 0 then 0 else if enc = 1 then 20 else if enc = 2 then 8 else 16

/-- The KEY_TYPE a type code 0 to 3 requires (R133). -/
def keyTypeOf (enc : Nat) : Nat := if enc = 0 then 0 else if enc = 1 then 1 else 2

/-- The first IN_LEN bytes of the snapshot's IN_BUF (R138). -/
def inputOf (S : Snapshot) : Bytes := (List.range S.inLen.toNat).map (Memory.get S.inBuf)

/-- The EAX tag of a ciphertext under the snapshot's data key (R254). -/
def eaxTagOf (S : Snapshot) (h : Hdr) (c : Bytes) : Bytes :=
  xorBytes (xorBytes (omac S.dataKey 0 h.nonce) (omac S.dataKey 2 c)) (omac S.dataKey 1 h.pseudo)

/-- The encrypted region of a payload, by the type code (R135, R230, R260, R280). -/
def regionOf (S : Snapshot) (h : Hdr) (payload : Bytes) : Bytes :=
  if h.enc = 0 then payload
  else if h.enc = 1 then
    aes128Ctr S.dataKey h.ctr (payload ++ hmacSha1 S.intKey (h.pseudo ++ payload))
  else
    aes128Ctr S.dataKey (omac S.dataKey 0 h.nonce) payload
      ++ (eaxTagOf S h (aes128Ctr S.dataKey (omac S.dataKey 0 h.nonce) payload)).take (tagLenOf h.enc)

/-- The payload of a region, or the detail of the tag error, by the type code (R231, R261, R280). -/
def payloadOf (S : Snapshot) (h : Hdr) (region : Bytes) : Except Nat Bytes :=
  if h.enc = 0 then .ok region
  else if h.enc = 1 then
    let x := aes128Ctr S.dataKey h.ctr region
    let p := x.take (x.length - 20)
    if hmacSha1 S.intKey (h.pseudo ++ p) = x.drop (x.length - 20) then .ok p else .error 0x20
  else
    let c := region.take (region.length - tagLenOf h.enc)
    if (eaxTagOf S h c).take (tagLenOf h.enc) = region.drop (region.length - tagLenOf h.enc) then
      .ok (aes128Ctr S.dataKey (omac S.dataKey 0 h.nonce) c)
    else .error 0x21

/-- The header at the start of a received message, by the table of R134; an absent node id is the context value
(R161, R162). -/
def wireHdr (S : Snapshot) (m : Bytes) : Hdr :=
  let w := wireField m 0 2
  let enc := w / 16 % 16
  { ver := w / 4096 % 16
    enc := enc
    flags := w / 256 % 16 * 256 + w % 16
    msgId := wireField m 2 4
    src := if w.testBit 9 then wireField m 6 8 else (regHdr S).src
    dst := if w.testBit 8 then wireField m (if w.testBit 9 then 14 else 6) 8 else (regHdr S).dst
    keyId :=
      if enc = 0 then 0
      else wireField m (6 + (if w.testBit 9 then 8 else 0) + (if w.testBit 8 then 8 else 0)) 2 }

/-- The header registers that hold a header (R165, R290). -/
def Hdr.registers (h : Hdr) : Header where
  version := BitVec.ofNat 4 h.ver
  encType := BitVec.ofNat 4 h.enc
  flags := BitVec.ofNat 16 h.flags
  msgId := BitVec.ofNat 32 h.msgId
  srcLo := BitVec.ofNat 32 h.src
  srcHi := BitVec.ofNat 32 (h.src / 2 ^ 32)
  dstLo := BitVec.ofNat 32 h.dst
  dstHi := BitVec.ofNat 32 (h.dst / 2 ^ 32)
  keyId := BitVec.ofNat 16 h.keyId

/-- The checks of ValidateHeader in the order of R151, each with its detail. -/
def headerChecks (S : Snapshot) : List (Bool × Nat) :=
  let h := regHdr S
  [ (h.ver != 1 && h.ver != 2, 0x01), (3 < h.enc, 0x02), (S.ctrl.strictFlags && h.flags % 16 != 0, 0x03),
    (h.src == 2 ^ 64 - 1, 0x04), (h.src == h.dst, 0x05), (h.tunneled && h.syncReq, 0x06),
    (h.ver == 1 && h.tunneled, 0x07) ]

/-- The checks of ENCODE in the order of R332, for buffers of n bytes. -/
def encodeChecks (n : Nat) (S : Snapshot) : List (Bool × Nat) :=
  let h := regHdr S
  headerChecks S
    ++ [ (S.keys.keyType.toNat != keyTypeOf h.enc, 0x08), (n < S.inLen.toNat, 0x41),
         (n < h.len + S.inLen.toNat + tagLenOf h.enc, 0x40) ]

/-- The checks of UNPACK_HDR in the order of R332. -/
def parseChecks (n : Nat) (S : Snapshot) : List (Bool × Nat) :=
  let h := wireHdr S (inputOf S)
  [ (n < S.inLen.toNat, 0x13), (S.inLen.toNat < 2, 0x10), (h.ver != 1 && h.ver != 2, 0x01), (3 < h.enc, 0x02),
    (S.ctrl.strictFlags && h.flags % 16 != 0, 0x03), (S.inLen.toNat < h.len, 0x11) ]

/-- The checks of DECODE before its transform, in the order of R332. -/
def decodeChecks (n : Nat) (S : Snapshot) : List (Bool × Nat) :=
  let h := wireHdr S (inputOf S)
  parseChecks n S
    ++ [ (S.keys.keyType.toNat != keyTypeOf h.enc, 0x08), (S.inLen.toNat - h.len < tagLenOf h.enc, 0x12) ]

/-- The detail of the first failing check, 0 when none fails (R332). -/
def firstFailing (checks : List (Bool × Nat)) : Nat := ((checks.find? (·.1)).map (·.2)).getD 0

/-- The ERR_CODE of a detail (R321). -/
def codeOf (detail : Nat) : Nat :=
  if detail = 0 then 0 else if detail ≤ 0x08 then 1 else if detail ≤ 0x13 then 2 else if detail = 0x20 then 3
  else if detail = 0x21 then 4 else if detail ≤ 0x31 then 5 else 6

/-- The state after an error completion with a detail (R122): these writes and no other. -/
def failed (s : State) (detail : Nat) : State :=
  { s with
    phase := .idle
    done := true
    outBuf := []
    outLen := 0
    errCode := BitVec.ofNat 4 (codeOf detail)
    errDetail := BitVec.ofNat 8 detail }

/-- Command i completes from s: OUT_BUF reads as `out` and 0x00 past it, OUT_LEN is its length, and everything else
is as in `rest` with the success marks of R122. -/
def SucceedsWith (i : Instr) (s : State) (out : Bytes) (rest : State) : Prop :=
  ∃ t, exec i s = .next t ∧ (∀ k, Memory.get t.outBuf k = out.getD k 0) ∧ Memory.wf t.outBuf ∧
    t.outLen = BitVec.ofNat 17 out.length ∧
    { t with outBuf := s.outBuf, outLen := s.outLen } =
      { rest with
        phase := .idle, done := true, errCode := 0, errDetail := 0, outBuf := s.outBuf, outLen := s.outLen }

/-- Every key register and KEY_TYPE at 0 (R55). -/
def noKeys : Keys := ⟨0, 0, 0, 0, 0, 0, 0, 0, 0, 0⟩

/-- The header registers at their reset value (R61). -/
def noHeader : Header := ⟨0, 0, 0, 0, 0, 0, 0, 0, 0⟩

/-- The opcodes of R111. -/
def opcodes : List Nat := [0x00, 0x01, 0x02, 0x10, 0x11, 0x12, 0x13, 0x14, 0x20]

/-- The offset and the writable bits of the registers that a write stores whole or masked (R42, R45 to R52). -/
def rwRegisters : List (Nat × Word) :=
  [ (0x01C, 0x1FFFF), (0x028, 0xF), (0x02C, 0xF), (0x030, 0x0F0F), (0x034, 0xFFFFFFFF), (0x038, 0xFFFFFFFF),
    (0x03C, 0xFFFFFFFF), (0x040, 0xFFFFFFFF), (0x044, 0xFFFFFFFF), (0x048, 0xFFFF), (0x04C, 0x3) ]

/-- The value of the register at an offset of `rwRegisters`: the field of the state that the commands read as their
operand (R42, R45 to R52, R138); 0 at every other offset. -/
def rwField (s : State) : Nat → Nat
  | 0x01C => s.inLen.toNat
  | 0x028 => s.hdr.version.toNat
  | 0x02C => s.hdr.encType.toNat
  | 0x030 => s.hdr.flags.toNat
  | 0x034 => s.hdr.msgId.toNat
  | 0x038 => s.hdr.srcLo.toNat
  | 0x03C => s.hdr.srcHi.toNat
  | 0x040 => s.hdr.dstLo.toNat
  | 0x044 => s.hdr.dstHi.toNat
  | 0x048 => s.hdr.keyId.toNat
  | 0x04C => s.keys.keyType.toNat
  | _ => 0

/-- A field that two runs, from s to t and from s' to t', write with one value, or that neither run changes. -/
def writtenAlike {α : Type} (f : State → α) (s t s' t' : State) : Prop :=
  f t = f t' ∨ (f t = f s ∧ f t' = f s')

/-- The engine's turn is next: nothing is scheduled, or its turn is at the head (R18, R92). -/
def engineNext (s : State) (after : State) : Prop :=
  (s.script = [] ∧ after = s) ∨ ∃ rest, s.script = .engine :: rest ∧ after = { s with script := rest }

end Sys2Proof.Claims

open Sys2Proof Sys2Proof.Machine Sys2Proof.Claims

/-! ### Command words -/

/-- R114: an OPC outside the map is illegal with 0x30 and a known OPC with RSV != 0 with 0x31; every other word is the
word of exactly one of the nine commands. -/
def Obligations.DecodeMapsEveryWord : Prop :=
  errorDetail (illegalError .unknownOpcode) = 0x30 ∧ errorDetail (illegalError .reservedBits) = 0x31 ∧
  ∀ w : Word,
    (w.toNat % 256 ∉ opcodes → decode w = .error .unknownOpcode) ∧
    (w.toNat % 256 ∈ opcodes → w.toNat / 256 ≠ 0 → decode w = .error .reservedBits) ∧
    (w.toNat % 256 ∈ opcodes → w.toNat / 256 = 0 → ∃! i, decode w = .ok i ∧ encode i = w)

/-- R111: the nine command words, written out from the opcode map. -/
def Obligations.OpcodeMapWordsDecode : Prop :=
  decode 0x00000000 = .ok .nop ∧ decode 0x00000001 = .ok .encode ∧ decode 0x00000002 = .ok .decode ∧
  decode 0x00000010 = .ok .packHdr ∧ decode 0x00000011 = .ok .unpackHdr ∧
  decode 0x00000012 = .ok .buildPseudo ∧ decode 0x00000013 = .ok .deriveCtr ∧
  decode 0x00000014 = .ok .deriveNonce ∧ decode 0x00000020 = .ok .zeroize

/-- Decoding the command word of a command gives it back, and no two commands share a word. -/
def Obligations.DecodeEncodeRoundTrip : Prop :=
  (∀ i, decode (encode i) = .ok i) ∧ ∀ (i : Instr) (w : Word), decode w = .ok i → w = encode i

/-! ### One step -/

/-- In the engine's turn, a running legal word runs as its command (R18, R122). The schedule, which loses that turn, is
the model's choice (log entry 2). -/
def Obligations.StepRunsDecodedCommand : Prop :=
  ∀ (s a : State) (S : Snapshot) (i : Instr),
    s.rst = false → s.phase = .busy S → decode S.cmd = .ok i → engineNext s a → step s = exec i a

/-- R306: a running illegal word completes with ILLEGAL_COMMAND 0x30 or 0x31; the keys are not cleared. -/
def Obligations.IllegalWordCompletesWithError : Prop :=
  ∀ (s : State) (S : Snapshot), s.rst = false → s.phase = .busy S →
    (S.cmd.toNat % 256 ∉ opcodes → engineTurn s = .next (failed s 0x30)) ∧
    (S.cmd.toNat % 256 ∈ opcodes → S.cmd.toNat / 256 ≠ 0 → engineTurn s = .next (failed s 0x31))

/-- The model's choices of log entries 2 and 5: a step takes the event at the head of the schedule. An access inside the
window is the bus transaction at its window offset (R80), one outside it a fault; a level of rst drives rst; else it is
the engine's turn, which changes nothing while IDLE and while rst = 1 (R18, R361). -/
def Obligations.StepAppliesScheduledEvent : Prop :=
  ∀ (s : State) (rest : List Event),
    (∀ off n, off < 0x40000 → s.script = .read (s.params.base + off) n :: rest →
      step s = .next ({ s with script := rest }.memRead off n)) ∧
    (∀ off n v, off < 0x40000 → s.script = .write (s.params.base + off) n v :: rest →
      step s = .next ({ s with script := rest }.memWrite off n v)) ∧
    (∀ addr n, (addr < s.params.base ∨ s.params.base + 0x40000 ≤ addr) → s.script = .read addr n :: rest →
      step s = .fault .outsideWindow) ∧
    (∀ addr n v, (addr < s.params.base ∨ s.params.base + 0x40000 ≤ addr) → s.script = .write addr n v :: rest →
      step s = .fault .outsideWindow) ∧
    (∀ b, s.script = .rst b :: rest → step s = .next ({ s with script := rest }.driveRst b)) ∧
    (s.script = .engine :: rest → step s = engineTurn { s with script := rest }) ∧
    (s.script = [] → step s = engineTurn s) ∧
    (s.phase = .idle ∨ s.rst = true → engineTurn s = .next s)

/-- The invariant of Safety.lean holds after every step from every state in which it holds. -/
def Obligations.EveryStepKeepsInv : Prop :=
  ∀ s t : State, s.Inv → step s = .next t → t.Inv

/-- The invariant holds at reset, for all legal parameters and for those of State.reset. -/
def Obligations.InvHoldsAtReset : Prop :=
  (∀ p : Params, p.wf = true → (State.resetWith p).Inv) ∧ State.reset.Inv

/-- A schedule that addresses the window only never ends in a fault or a refusal (the schedule and the fault are the
model's choice, log entries 2 and 5). -/
def Obligations.InWindowScheduleNeverStops : Prop :=
  ∀ s : State, s.scriptInWindow = true → ∃ t, step s = .next t ∧ t.scriptInWindow = true

/-- When the schedule is used up, one engine turn later no command is running: each was completed or was discarded by a
reset (R124; that the engine's turn follows the schedule is the model's choice, log entry 2). -/
def Obligations.EveryIssuedCommandEnds : Prop :=
  ∀ s : State, s.scriptInWindow = true → (s.rst = true → s.phase = .idle) →
    ∃ t, Host.Core.run core (s.script.length + 1) s = .next t ∧ t.phase = .idle ∧ t.script = []

/-- R123: while a command runs, a read can only set BUSERR, and a write that is no soft reset changes CTRL at the offset
of CTRL alone, clears STATUS bits at the offset of STATUS alone, and else can only set WERR or BUSERR. A soft reset and a
rise of rst leave the reset state, in which the engine has no step: the command never completes. (readData, log entry 3,
stands outside.) -/
def Obligations.BusyStateChangesOnlyControl : Prop :=
  ∀ (s : State) (S : Snapshot), s.rst = false → s.phase = .busy S →
    (∀ off n, { s.memRead off n with buserr := s.buserr, readData := s.readData } = s ∧
      (s.buserr = true → (s.memRead off n).buserr = true)) ∧
    (∀ off n v, ¬ (n = 4 ∧ off = 0x008 ∧ v.getLsbD 1 = true) →
      let t := s.memWrite off n v
      { t with ctrl := s.ctrl, done := s.done, werr := s.werr, buserr := s.buserr } = s ∧
      (off ≠ 0x008 → t.ctrl = s.ctrl) ∧
      (off ≠ 0x010 → t.done = s.done ∧ (s.werr = true → t.werr = true) ∧ (s.buserr = true → t.buserr = true))) ∧
    s.driveRst false = s ∧
    ∀ v b t, (v.getLsbD 1 = true ∧ b = false ∧ t = s.memWrite 0x008 4 v) ∨ (b = true ∧ t = s.driveRst true) →
      t = { State.resetWith s.params with rst := b, readData := s.readData, script := s.script } ∧
      t.phase = .idle ∧ engineTurn t = .next t

/-- R121: a command's codes, its register writes and, but for NOP, its output depend on nothing but its snapshot and
BUF_BYTES: two completions of one snapshot write each register with the same value or both leave it. -/
def Obligations.ResultDependsOnSnapshotOnly : Prop :=
  ∀ (i : Instr) (s s' t t' : State) (S : Snapshot),
    s.phase = .busy S → s'.phase = .busy S → s.params.bufBytes = s'.params.bufBytes →
    exec i s = .next t → exec i s' = .next t' →
    t.errCode = t'.errCode ∧ t.errDetail = t'.errDetail ∧
    (i ≠ .nop → t.outBuf = t'.outBuf ∧ t.outLen = t'.outLen) ∧
    writtenAlike State.hdr s t s' t' ∧ writtenAlike State.hdrLen s t s' t' ∧ writtenAlike State.keys s t s' t' ∧
    writtenAlike State.inBuf s t s' t' ∧ writtenAlike State.inLen s t s' t'

/-- The model's choice of log entry 4: a meaning run while IDLE is the command issued and completed at once. -/
def Obligations.IdleMeaningIsIssueThenRun : Prop :=
  ∀ (i : Instr) (s : State), s.phase = .idle → exec i s = exec i (s.issue (encode i))

/-! ### Reset -/

/-- R61: every piece of state after reset; the registers as a read returns them. -/
def Obligations.ResetLeavesListedValues : Prop :=
  ∀ p : Params, p.wf = true →
    let s := State.resetWith p
    s.memReadValue 0x000 4 = 0x574D0001 ∧ (s.memReadValue 0x004 4).toNat = p.bufBytes ∧
    (∀ off, off ≠ 0x000 → off ≠ 0x004 → s.memReadValue off 4 = 0) ∧
    s.phase = .idle ∧ s.ctrl = ⟨false, false⟩ ∧ s.statusWord = 0 ∧ s.errCode = 0 ∧ s.errDetail = 0 ∧
    s.inLen = 0 ∧ s.outLen = 0 ∧ s.hdrLen = 0 ∧ s.hdr = noHeader ∧ s.keys = noKeys ∧
    (∀ k, Memory.get s.inBuf k = 0) ∧ (∀ k, Memory.get s.outBuf k = 0) ∧ s.irq = false

/-- R36, R362: a CTRL write with bit 1 = 1 resets everything in both phases; without it, it sets the enables. -/
def Obligations.CtrlWriteResetsOrSetsEnables : Prop :=
  ∀ (s : State) (v : Word), s.rst = false →
    (v.getLsbD 1 = true → s.memWrite 0x008 4 v =
      { State.resetWith s.params with readData := s.readData, script := s.script }) ∧
    (v.getLsbD 1 = false → s.memWrite 0x008 4 v = { s with ctrl := ⟨v.getLsbD 0, v.getLsbD 2⟩ })

/-- R361: while rst = 1 an access has no effect and reads 0; a rise, and the fall, leave the reset state. -/
def Obligations.RstInputHoldsReset : Prop :=
  ∀ s : State,
    (s.rst = true → ∀ off n v,
      s.memWrite off n v = s ∧ s.memRead off n = { s with readData := 0 }) ∧
    s.driveRst true =
      { State.resetWith s.params with rst := true, readData := s.readData, script := s.script } ∧
    (s.rst = true → s.driveRst false =
      { State.resetWith s.params with readData := s.readData, script := s.script })

/-! ### The bus -/

/-- R87: an access of another size or alignment only sets BUSERR, in both phases; a read returns 0. -/
def Obligations.IllegalAccessOnlySetsBuserr : Prop :=
  ∀ (s : State) (off n : Nat) (v : Word), s.rst = false → ¬ (n = 4 ∧ off % 4 = 0) →
    s.memWrite off n v = { s with buserr := true } ∧
    s.memRead off n = { s with buserr := true, readData := 0 }

/-- R91: while BUSY, a legal read of any offset but those of ID, BUF_SIZE, CTRL and STATUS returns 0, and those
four read as ever. -/
def Obligations.BusyReadsReturnZero : Prop :=
  ∀ (s : State) (off : Nat), s.rst = false → s.isBusy = true → off % 4 = 0 →
    (off ∉ [0x000, 0x004, 0x008, 0x010] → s.memRead off 4 = { s with readData := 0 }) ∧
    s.memReadValue 0x000 4 = 0x574D0001 ∧ s.memReadValue 0x008 4 = s.ctrlWord ∧
    s.memReadValue 0x010 4 = s.statusWord ∧
    (s.params.wf = true → (s.memReadValue 0x004 4).toNat = s.params.bufBytes)

/-- R93: while BUSY, a legal write to any offset but CTRL and STATUS is ignored and sets WERR. -/
def Obligations.BusyWritesOnlySetWerr : Prop :=
  ∀ (s : State) (off : Nat) (v : Word), s.rst = false → s.isBusy = true → off % 4 = 0 →
    off ≠ 0x008 → off ≠ 0x010 → s.memWrite off 4 v = { s with werr := true }

/-- R82, R85: a word written to IN_BUF while IDLE lands as its four bytes, low byte first, changes no other byte and
nothing else, and reads back. -/
def Obligations.InBufWordWriteReadsBack : Prop :=
  ∀ (s : State) (k : Nat) (v : Word), s.rst = false → s.phase = .idle → s.params.wf = true →
    k % 4 = 0 → k + 4 ≤ s.params.bufBytes →
    let t := s.memWrite (0x10000 + k) 4 v
    (∀ j, Memory.get t.inBuf j
      = if k ≤ j ∧ j < k + 4 then byteOf v.toNat (j - k) else Memory.get s.inBuf j) ∧
    { t with inBuf := s.inBuf } = s ∧ t.memReadValue (0x10000 + k) 4 = v

/-- R85: a word read from a buffer while IDLE is its four bytes, low byte first. -/
def Obligations.BufferWordReadIsLittleEndian : Prop :=
  ∀ (s : State) (k : Nat), s.rst = false → s.phase = .idle → s.params.wf = true →
    k % 4 = 0 → k + 4 ≤ s.params.bufBytes →
    (s.memReadValue (0x10000 + k) 4).toNat
      = (Memory.get s.inBuf k).toNat + 256 * (Memory.get s.inBuf (k + 1)).toNat
        + 65536 * (Memory.get s.inBuf (k + 2)).toNat + 16777216 * (Memory.get s.inBuf (k + 3)).toNat ∧
    (s.memReadValue (0x20000 + k) 4).toNat
      = (Memory.get s.outBuf k).toNat + 256 * (Memory.get s.outBuf (k + 1)).toNat
        + 65536 * (Memory.get s.outBuf (k + 2)).toNat + 16777216 * (Memory.get s.outBuf (k + 3)).toNat

/-- R32, R56 to R58, R81: while IDLE, a legal write to an RO register, to OUT_BUF or to a reserved offset changes
nothing, and a reserved offset reads 0. -/
def Obligations.ReadOnlyAndReservedIgnoreWrites : Prop :=
  ∀ (s : State) (off : Nat) (v : Word), s.rst = false → s.phase = .idle → off % 4 = 0 →
    ((off ∈ [0x000, 0x004, 0x014, 0x018, 0x020, 0x024] ∨ (0x074 ≤ off ∧ off < 0x10000) ∨
      0x10000 + s.params.bufBytes ≤ off) → s.memWrite off 4 v = s) ∧
    (((0x074 ≤ off ∧ off < 0x10000) ∨ (0x10000 + s.params.bufBytes ≤ off ∧ off < 0x20000) ∨
      0x20000 + s.params.bufBytes ≤ off) → s.memRead off 4 = { s with readData := 0 })

/-- R42, R45 to R52: a write of a RW register stores the written value less its reserved bits in the field the commands
read (R138) and leaves every other such field; it reads back so, every other offset reads as before, and nothing but
IN_LEN, the header registers and KEY_TYPE can change. -/
def Obligations.RegisterWriteReadsBackMasked : Prop :=
  ∀ (s : State) (off : Nat) (mask v : Word), s.rst = false → s.phase = .idle → (off, mask) ∈ rwRegisters →
    let t := s.memWrite off 4 v
    rwField t off = (v &&& mask).toNat ∧ (∀ off', off' ≠ off → rwField t off' = rwField s off') ∧
    t.memReadValue off 4 = v &&& mask ∧
    (∀ off', off' ≠ off → t.memReadValue off' 4 = s.memReadValue off' 4) ∧
    { t with inLen := s.inLen, hdr := s.hdr, keys := { t.keys with keyType := s.keys.keyType } } = s

/-- R53, R54: the key registers pack the key bytes low byte first, and never read back. -/
def Obligations.KeyRegistersPackAndHide : Prop :=
  ∀ (s : State) (d0 d1 d2 d3 i0 i1 i2 i3 i4 w : Word), s.rst = false → s.phase = .idle →
    let t := (((s.memWrite 0x050 4 d0).memWrite 0x054 4 d1).memWrite 0x058 4 d2).memWrite 0x05C 4 d3
    let u := ((((t.memWrite 0x060 4 i0).memWrite 0x064 4 i1).memWrite 0x068 4 i2).memWrite 0x06C 4 i3).memWrite
      0x070 4 i4
    (u.capture w).dataKey = lowFirst 4 d0.toNat ++ lowFirst 4 d1.toNat ++ lowFirst 4 d2.toNat ++ lowFirst 4 d3.toNat ∧
    (u.capture w).intKey = lowFirst 4 i0.toNat ++ lowFirst 4 i1.toNat ++ lowFirst 4 i2.toNat ++ lowFirst 4 i3.toNat
      ++ lowFirst 4 i4.toNat ∧
    { u with keys := s.keys } = s ∧ u.keys.keyType = s.keys.keyType ∧
    ∀ off, 0x050 ≤ off → off < 0x074 → u.memReadValue off 4 = 0

/-- No bus read of any size, at any offset and in either phase, depends on DATA_KEY, on INT_KEY or on the snapshot
of a running command (R53, R54, R59). -/
def Obligations.KeysNeverReachTheBus : Prop :=
  ∀ (s : State) (k : Keys) (S S' : Snapshot) (off n : Nat),
    (k.keyType = s.keys.keyType → { s with keys := k }.memReadValue off n = s.memReadValue off n) ∧
    { s with phase := .busy S, keys := k }.memReadValue off n
      = { s with phase := .busy S' }.memReadValue off n

/-- R90: a legal read changes no state (only the host's side gets the data word) and can be repeated. -/
def Obligations.LegalReadHasNoSideEffect : Prop :=
  ∀ (s : State) (off : Nat), off % 4 = 0 →
    s.memRead off 4 = { s with readData := s.memReadValue off 4 } ∧
    ∀ off' n, (s.memRead off 4).memReadValue off' n = s.memReadValue off' n

/-- R39: a STATUS write clears exactly the W1C bits it names, in both phases. -/
def Obligations.StatusWriteClearsNamedBits : Prop :=
  ∀ (s : State) (v : Word), s.rst = false →
    s.memWrite 0x010 4 v =
      { s with done := s.done && !v.getLsbD 1, werr := s.werr && !v.getLsbD 3, buserr := s.buserr && !v.getLsbD 4 }

/-- R35, R38: the bits a read of CTRL and of STATUS returns. That ERR shows the kept ERR_CODE while BUSY too is the
model's choice (log entry 15). -/
def Obligations.ControlAndStatusBits : Prop :=
  ∀ s : State, s.rst = false →
    let c := s.memReadValue 0x008 4
    let w := s.memReadValue 0x010 4
    c.getLsbD 0 = s.ctrl.irqEn ∧ c.getLsbD 1 = false ∧ c.getLsbD 2 = s.ctrl.strictFlags ∧
    (∀ j, 3 ≤ j → c.getLsbD j = false) ∧
    (w.getLsbD 0 = true ↔ ∃ S, s.phase = .busy S) ∧ w.getLsbD 1 = s.done ∧
    (w.getLsbD 2 = true ↔ s.errCode ≠ 0) ∧
    w.getLsbD 3 = s.werr ∧ w.getLsbD 4 = s.buserr ∧ (∀ j, 5 ≤ j → w.getLsbD j = false)

/-- While IDLE, a read of ID is the constant of R33, of BUF_SIZE is BUF_BYTES (R34), of CMD is 0 (R37), of ERR_CODE,
ERR_DETAIL, OUT_LEN and HDR_LEN is what the last completion left (R40, R41, R43, R44), and of a RW register is the field
the commands read (R42, R45 to R52). -/
def Obligations.IdleReadsReturnRegisters : Prop :=
  ∀ s : State, s.rst = false → s.phase = .idle →
    s.memReadValue 0x000 4 = 0x574D0001 ∧ (s.params.wf = true → (s.memReadValue 0x004 4).toNat = s.params.bufBytes) ∧
    s.memReadValue 0x00C 4 = 0 ∧ (s.memReadValue 0x014 4).toNat = s.errCode.toNat ∧
    (s.memReadValue 0x018 4).toNat = s.errDetail.toNat ∧ (s.memReadValue 0x020 4).toNat = s.outLen.toNat ∧
    (s.memReadValue 0x024 4).toNat = s.hdrLen.toNat ∧
    ∀ row ∈ rwRegisters, (s.memReadValue row.1 4).toNat = rwField s row.1

/-- R340: irq is IRQ_EN and DONE; it falls when DONE is cleared by the host or by the next CMD write, when IRQ_EN is
written 0 and at reset, and rises at once when IRQ_EN is set while DONE = 1. -/
def Obligations.IrqFollowsDoneAndEnable : Prop :=
  ∀ (s : State) (v : Word), s.rst = false →
    (s.irq = true ↔ (s.memReadValue 0x008 4).getLsbD 0 = true ∧ (s.memReadValue 0x010 4).getLsbD 1 = true) ∧
    (v.getLsbD 1 = true → (s.memWrite 0x010 4 v).irq = false ∧ (s.memWrite 0x008 4 v).irq = false) ∧
    (s.phase = .idle → (s.memWrite 0x00C 4 v).irq = false) ∧
    (v.getLsbD 0 = false → (s.memWrite 0x008 4 v).irq = false) ∧
    (v.getLsbD 0 = true → v.getLsbD 1 = false → s.done = true → (s.memWrite 0x008 4 v).irq = true) ∧
    (s.driveRst true).irq = false

/-- R120: an accepted CMD write takes the snapshot, clears DONE and enters BUSY, and changes nothing else; the results
of the last command then read as 0. -/
def Obligations.CmdWriteTakesSnapshot : Prop :=
  ∀ (s : State) (w : Word), s.rst = false → s.phase = .idle →
    s.memWrite 0x00C 4 w =
      { s with
        phase := .busy { cmd := w, ctrl := s.ctrl, inLen := s.inLen, hdr := s.hdr, keys := s.keys, inBuf := s.inBuf }
        done := false } ∧
    ∀ off n, off ∉ [0x000, 0x004, 0x008, 0x010] → (s.memWrite 0x00C 4 w).memReadValue off n = 0

/-! ### The commands -/

/-- R281: NOP completes with success and changes nothing else. -/
def Obligations.NopOnlyCompletes : Prop :=
  decode 0x00000000 = .ok .nop ∧
  ∀ (s : State) (S : Snapshot), s.phase = .busy S →
    exec .nop s = .next { s with phase := .idle, done := true, errCode := 0, errDetail := 0 }

/-- R305: ZEROIZE clears keys, buffers and lengths; the header registers and CTRL are unchanged. No other command
writes IN_BUF. -/
def Obligations.ZeroizeClearsSecrets : Prop :=
  decode 0x00000020 = .ok .zeroize ∧
  (∀ (s : State) (S : Snapshot), s.phase = .busy S →
    exec .zeroize s = .next
      { s with
        phase := .idle, done := true, errCode := 0, errDetail := 0, keys := noKeys, inBuf := [], outBuf := [],
        inLen := 0, outLen := 0, hdrLen := 0 }) ∧
  ∀ (i : Instr) (s t : State), i ≠ .zeroize → exec i s = .next t → t.inBuf = s.inBuf

/-- R193: DERIVE_CTR writes the 16-byte counter block, big-endian, and nothing else. -/
def Obligations.DeriveCtrWritesCounter : Prop :=
  decode 0x00000013 = .ok .deriveCtr ∧
  ∀ (s : State) (S : Snapshot), s.phase = .busy S →
    SucceedsWith .deriveCtr s (regHdr S).ctr s ∧ (regHdr S).ctr.length = 16

/-- R194: DERIVE_NONCE writes the 12-byte nonce, big-endian, and nothing else. -/
def Obligations.DeriveNonceWritesNonce : Prop :=
  decode 0x00000014 = .ok .deriveNonce ∧
  ∀ (s : State) (S : Snapshot), s.phase = .busy S →
    SucceedsWith .deriveNonce s (regHdr S).nonce s ∧ (regHdr S).nonce.length = 12 ∧
    (regHdr S).nonce = (regHdr S).ctr.take 12

/-- R184: BUILD_PSEUDO writes the pseudo-header of whatever the header registers hold, and nothing else. -/
def Obligations.BuildPseudoWritesPseudoHeader : Prop :=
  decode 0x00000012 = .ok .buildPseudo ∧
  ∀ (s : State) (S : Snapshot), s.phase = .busy S →
    SucceedsWith .buildPseudo s (regHdr S).pseudo s ∧
    (regHdr S).pseudo.length = (if (regHdr S).ver = 1 ∧ (regHdr S).enc = 1 then 16 else 22)

/-- R160: PACK_HDR of a valid header writes the header region and HDR_LEN, and nothing else; of another it reports the
first failing check. -/
def Obligations.PackHdrValidatesAndPacks : Prop :=
  decode 0x00000010 = .ok .packHdr ∧
  ∀ (s : State) (S : Snapshot), s.phase = .busy S →
    let d := firstFailing (headerChecks S)
    (d = 0 → SucceedsWith .packHdr s (regHdr S).bytes { s with hdrLen := BitVec.ofNat 5 (regHdr S).len }) ∧
    (d ≠ 0 → exec .packHdr s = .next (failed s d))

/-- R165: UNPACK_HDR of a message with a whole header loads the header registers and HDR_LEN, empties OUT_BUF, and
changes nothing else; of another it reports the first failing check. -/
def Obligations.UnpackHdrParsesAndLoads : Prop :=
  decode 0x00000011 = .ok .unpackHdr ∧
  ∀ (s : State) (S : Snapshot), s.phase = .busy S →
    let d := firstFailing (parseChecks s.params.bufBytes S)
    let h := wireHdr S (inputOf S)
    (d = 0 → SucceedsWith .unpackHdr s [] { s with hdr := h.registers, hdrLen := BitVec.ofNat 5 h.len }) ∧
    (d ≠ 0 → exec .unpackHdr s = .next (failed s d))

/-- R282: ENCODE of a valid header, the matching key and a payload that fits writes the header and the sealed region
of its type and sets HDR_LEN; else it reports the first failing check. It clears the keys in both outcomes and changes
nothing else. -/
def Obligations.EncodeChecksAndSeals : Prop :=
  decode 0x00000001 = .ok .encode ∧
  ∀ (s : State) (S : Snapshot), s.phase = .busy S →
    let d := firstFailing (encodeChecks s.params.bufBytes S)
    (d = 0 → SucceedsWith .encode s ((regHdr S).bytes ++ regionOf S (regHdr S) (inputOf S))
      { s with hdrLen := BitVec.ofNat 5 (regHdr S).len, keys := noKeys }) ∧
    (d ≠ 0 → exec .encode s = .next { failed s d with keys := noKeys })

/-- R290, R293: DECODE of a message that passes every check and whose tag verifies delivers the payload and the
header; else it reports the first failing check, or the tag mismatch (0x20 or 0x21), and returns no header field and no
payload byte. It clears the keys in every outcome and changes nothing else. -/
def Obligations.DecodeChecksAndOpens : Prop :=
  decode 0x00000002 = .ok .decode ∧
  ∀ (s : State) (S : Snapshot), s.phase = .busy S →
    let h := wireHdr S (inputOf S)
    let d := firstFailing (decodeChecks s.params.bufBytes S)
    let opened := payloadOf S h ((inputOf S).drop h.len)
    (d = 0 → ∀ payload, opened = .ok payload →
      SucceedsWith .decode s payload { s with hdr := h.registers, hdrLen := BitVec.ofNat 5 h.len, keys := noKeys }) ∧
    (d = 0 → ∀ e, opened = .error e → exec .decode s = .next { failed s e with keys := noKeys }) ∧
    (d ≠ 0 → exec .decode s = .next { failed s d with keys := noKeys })

/-- R331: an error completion, of an illegal word too, writes OUT_BUF, OUT_LEN, ERR_CODE, ERR_DETAIL, STATUS and, for
ENCODE and DECODE, the keys, and nothing else. -/
def Obligations.ErrorsArePrecise : Prop :=
  (∀ (i : Instr) (s t : State), exec i s = .next t → t.errCode ≠ 0 →
    t = { s with
      phase := .idle, done := true, outBuf := [], outLen := 0, errCode := t.errCode, errDetail := t.errDetail,
      keys := if i = .encode ∨ i = .decode then noKeys else s.keys }) ∧
  ∀ (s : State) (why : IllegalCommand), ∃ d, s.completeIllegal why = failed s d

/-- ENCODE and DECODE clear the keys in both outcomes, ZEROIZE and reset do, and no other command and no illegal word
changes them (R55). No command but ENCODE and DECODE, and no illegal word, reads them: with other keys, in the registers
and in the snapshot, it leaves the same state but for them (R112, R373). -/
def Obligations.OnlyEncodeAndDecodeUseKeys : Prop :=
  (∀ (i : Instr) (s t : State) (S : Snapshot) (k : Keys), s.phase = .busy S → exec i s = .next t →
    t.keys = (if i = .encode ∨ i = .decode ∨ i = .zeroize then noKeys else s.keys) ∧
    (i ≠ .encode → i ≠ .decode →
      exec i { s with phase := .busy { S with keys := k }, keys := k }
        = .next { t with keys := if i = .zeroize then noKeys else k })) ∧
  (∀ (s t : State) (S : Snapshot) (k : Keys) (why : IllegalCommand), s.rst = false → s.phase = .busy S →
    decode S.cmd = .error why → engineTurn s = .next t →
    t.keys = s.keys ∧
    engineTurn { s with phase := .busy { S with keys := k }, keys := k } = .next { t with keys := k }) ∧
  ∀ s : State, s.resetAll.keys = noKeys

/-- R99: bytes of IN_BUF at and above IN_LEN do not affect any command, and no byte does when IN_LEN > BUF_BYTES. -/
def Obligations.BytesPastInLenAreIgnored : Prop :=
  ∀ (i : Instr) (s : State) (S : Snapshot) (m : Memory), s.phase = .busy S →
    (S.inLen.toNat ≤ s.params.bufBytes → ∀ k, k < S.inLen.toNat → Memory.get m k = Memory.get S.inBuf k) →
    exec i { s with phase := .busy { S with inBuf := m } } = exec i s

/-- R192: the counter and the nonce depend on the source node id and the message id alone. -/
def Obligations.DerivationsReadSourceAndIdOnly : Prop :=
  ∀ (s : State) (S S' : Snapshot), s.phase = .busy S → S'.hdr.srcLo = S.hdr.srcLo →
    S'.hdr.srcHi = S.hdr.srcHi → S'.hdr.msgId = S.hdr.msgId →
    exec .deriveCtr { s with phase := .busy S' } = exec .deriveCtr s ∧
    exec .deriveNonce { s with phase := .busy S' } = exec .deriveNonce s

/-- R298: with a valid header and a key variant that does not match, ENCODE and DECODE end with 0x08 whatever the key
bytes are. -/
def Obligations.WrongKeyVariantIsRefused : Prop :=
  ∀ (s : State) (S : Snapshot), s.phase = .busy S →
    (firstFailing (headerChecks S) = 0 → S.keys.keyType.toNat ≠ keyTypeOf (regHdr S).enc →
      exec .encode s = .next { failed s 0x08 with keys := noKeys }) ∧
    (firstFailing (parseChecks s.params.bufBytes S) = 0 →
      S.keys.keyType.toNat ≠ keyTypeOf (wireHdr S (inputOf S)).enc →
      exec .decode s = .next { failed s 0x08 with keys := noKeys })

/-- R297: on ENCODE, equal node ids, a wildcard source, TunneledData with MsgCounterSyncReq, and V1 with TunneledData
are refused with 0x05, 0x04, 0x06 and 0x07, when no earlier check fails. -/
def Obligations.InvariantsAreRejected : Prop :=
  ∀ (s : State) (S : Snapshot), s.phase = .busy S →
    let h := regHdr S
    let none_of := fun n => firstFailing ((headerChecks S).take n) = 0
    (none_of 3 → h.src = 2 ^ 64 - 1 → exec .encode s = .next { failed s 0x04 with keys := noKeys }) ∧
    (none_of 4 → h.src = h.dst → exec .encode s = .next { failed s 0x05 with keys := noKeys }) ∧
    (none_of 5 → h.tunneled = true → h.syncReq = true →
      exec .encode s = .next { failed s 0x06 with keys := noKeys }) ∧
    (none_of 6 → h.ver = 1 → h.tunneled = true → exec .encode s = .next { failed s 0x07 with keys := noKeys })

/-! ### The wire format and the transforms -/

/-- R130: the fields of the header word by number, and packing and unpacking undo each other. -/
def Obligations.HeaderWordRoundTrip : Prop :=
  (∀ w : BitVec 16,
    (wordVersion w).toNat = w.toNat / 4096 ∧ (wordEncType w).toNat = w.toNat / 16 % 16 ∧
    wordFlags w = w &&& 0x0F0F ∧ headerWord (wordVersion w) (wordEncType w) (wordFlags w) = w) ∧
  ∀ (ver enc : BitVec 4) (f : BitVec 16),
    (headerWord ver enc f).toNat = ver.toNat * 4096 + enc.toNat * 16 + (f &&& 0x0F0F).toNat ∧
    wordVersion (headerWord ver enc f) = ver ∧ wordEncType (headerWord ver enc f) = enc ∧
    wordFlags (headerWord ver enc f) = f &&& 0x0F0F

/-- The packed header of a valid snapshot, followed by any bytes, parses back to the same header, an absent node id being
the parsing snapshot's (R164). R164 leaves out one case (log entry 13): a parser under STRICT_FLAGS = 1 refuses a header
that was packed with undefined flag bits (R152, R161, R379). -/
def Obligations.ParseInvertsPack : Prop :=
  ∀ (S S' : Snapshot) (enc : EncType) (r : Bytes), validateHeader S = .ok enc →
    (S'.ctrl.strictFlags = true ∧ flagSet S.flags undefFlags = true →
      parseHeader S' (packHeader S.header ++ r) = .error .undefinedFlags) ∧
    (S'.ctrl.strictFlags = false ∨ flagSet S.flags undefFlags = false →
      ∃ p, parseHeader S' (packHeader S.header ++ r) = .ok p ∧ p.enc = enc ∧
        p.len = (packHeader S.header).length ∧ p.hdr.ver = S.hdr.version ∧ p.hdr.enc = S.hdr.encType ∧
        p.hdr.flags = S.flags ∧ p.hdr.msgId = S.hdr.msgId ∧
        p.hdr.src = (if flagSet S.flags sourceNodeIdPresent then S.src else S'.src) ∧
        p.hdr.dst = (if flagSet S.flags destNodeIdPresent then S.dst else S'.dst) ∧
        p.hdr.keyId = (if S.hdr.encType = 0 then 0 else S.hdr.keyId))

/-- R296: DECODE of what ENCODE produced, with the same key record and STRICT_FLAGS and context node ids equal to the
message's for those absent from the wire, delivers the payload and the header. -/
def Obligations.DecodeUndoesEncode : Prop :=
  ∀ (s t s' : State) (S S' : Snapshot), s.params.wf = true → s.phase = .busy S →
    firstFailing (encodeChecks s.params.bufBytes S) = 0 → exec .encode s = .next t →
    s'.params = s.params → s'.phase = .busy S' → S'.inLen = t.outLen →
    (∀ k, k < t.outLen.toNat → Memory.get S'.inBuf k = Memory.get t.outBuf k) →
    S'.keys = S.keys → S'.ctrl.strictFlags = S.ctrl.strictFlags →
    ((regHdr S).hasSrc = false → S'.src = S.src) → ((regHdr S).hasDst = false → S'.dst = S.dst) →
    ∃ t', exec .decode s' = .next t' ∧ t'.errCode = 0 ∧ t'.errDetail = 0 ∧
      t'.outLen = S.inLen ∧ Memory.toBytes t'.outBuf S.inLen.toNat = inputOf S ∧
      t'.hdr = { S.hdr with
        flags := S.hdr.flags &&& 0x0F0F, keyId := if S.hdr.encType = 0 then 0 else S.hdr.keyId } ∧
      t'.hdrLen = t.hdrLen

/-- R215: encryption and decryption in counter mode are the same function: applied twice it gives the input back. -/
def Obligations.CounterModeUndoesItself : Prop :=
  ∀ key c0 x : Bytes, aes128Ctr key c0 (aes128Ctr key c0 x) = x

/-- R216: for the CTR+SHA1 suite block j uses the counter BE64(src), BE32(msgId), BE32(j). -/
def Obligations.CtrSha1CounterStaysInLowWord : Prop :=
  ∀ (h : MsgHeader) (dk : Bytes) (j : Nat), j < 2 ^ 32 →
    keystreamBlock dk (ctrInit h) j
      = aes128 dk (highFirst 8 h.src.toNat ++ highFirst 4 h.msgId.toNat ++ highFirst 4 j)

/-- R227: on strings of equal length the comparison that examines every byte is equality. -/
def Obligations.ConstantTimeCompareIsEquality : Prop :=
  ∀ a b : Bytes, a.length = b.length → (ctEq a b = true ↔ a = b)

/-- R254, R255: EAX decryption accepts exactly the tag that encryption makes for that ciphertext, and then gives the
message back. -/
def Obligations.EaxAcceptsOnlyItsTag : Prop :=
  ∀ (key nonce aad m : Bytes) (tl : Nat), tl ≤ 16 →
    (eaxEnc key nonce aad m tl).1.length = m.length ∧ (eaxEnc key nonce aad m tl).2.length = tl ∧
    eaxDec key nonce aad (eaxEnc key nonce aad m tl).1 (eaxEnc key nonce aad m tl).2 = some m ∧
    ∀ tag, tag.length = tl → tag ≠ (eaxEnc key nonce aad m tl).2 →
      eaxDec key nonce aad (eaxEnc key nonce aad m tl).1 tag = none

/-- The part of R186 that holds with certainty: a region that opens no longer does when only bytes of its tag are
changed; it then fails with INTEGRITY_CHECK_FAILED or AUTHENTICATION_FAILED. -/
def Obligations.ChangedTagAlwaysFails : Prop :=
  ∀ (enc : EncType) (h : MsgHeader) (S : Snapshot) (body tag tag' payload : Bytes),
    enc ≠ .none → tag.length = tagLen enc → tag'.length = tagLen enc → tag' ≠ tag →
    openRegion enc h S (body ++ tag) = .ok payload →
    openRegion enc h S (body ++ tag')
      = .error (if enc = .aes128CtrSha1 then .integrity else .authentication)

/-- The part of R185 and R186 on keyId and MsgCounterSyncReq: neither enters the pseudo-header, the counter or the
nonce, so sealing and opening do not depend on them. -/
def Obligations.KeyIdAndSyncReqAreUncovered : Prop :=
  ∀ (enc : EncType) (h : MsgHeader) (S : Snapshot) (x : Bytes) (k : BitVec 16),
    let h' : MsgHeader := { h with keyId := k, flags := h.flags ^^^ msgCounterSyncReq }
    sealRegion enc h' S x = sealRegion enc h S x ∧ openRegion enc h' S x = openRegion enc h S x
end

