-- ==== Sys2Proof/Laws/State.lean ====
section
/-! SUPPORT. One lemma for each field and each named state update, true by rfl, so that no later proof unfolds a
record update. -/

namespace Sys2Proof.Machine

/-! ### State.issue -/

@[simp] theorem issue_params (s : State) (w : Word) :
    (s.issue w).params = s.params := rfl
@[simp] theorem issue_rst (s : State) (w : Word) :
    (s.issue w).rst = s.rst := rfl
@[simp] theorem issue_phase (s : State) (w : Word) :
    (s.issue w).phase = .busy (s.capture w) := rfl
@[simp] theorem issue_ctrl (s : State) (w : Word) :
    (s.issue w).ctrl = s.ctrl := rfl
@[simp] theorem issue_done (s : State) (w : Word) :
    (s.issue w).done = false := rfl
@[simp] theorem issue_werr (s : State) (w : Word) :
    (s.issue w).werr = s.werr := rfl
@[simp] theorem issue_buserr (s : State) (w : Word) :
    (s.issue w).buserr = s.buserr := rfl
@[simp] theorem issue_errCode (s : State) (w : Word) :
    (s.issue w).errCode = s.errCode := rfl
@[simp] theorem issue_errDetail (s : State) (w : Word) :
    (s.issue w).errDetail = s.errDetail := rfl
@[simp] theorem issue_inLen (s : State) (w : Word) :
    (s.issue w).inLen = s.inLen := rfl
@[simp] theorem issue_outLen (s : State) (w : Word) :
    (s.issue w).outLen = s.outLen := rfl
@[simp] theorem issue_hdrLen (s : State) (w : Word) :
    (s.issue w).hdrLen = s.hdrLen := rfl
@[simp] theorem issue_hdr (s : State) (w : Word) :
    (s.issue w).hdr = s.hdr := rfl
@[simp] theorem issue_keys (s : State) (w : Word) :
    (s.issue w).keys = s.keys := rfl
@[simp] theorem issue_inBuf (s : State) (w : Word) :
    (s.issue w).inBuf = s.inBuf := rfl
@[simp] theorem issue_outBuf (s : State) (w : Word) :
    (s.issue w).outBuf = s.outBuf := rfl
@[simp] theorem issue_readData (s : State) (w : Word) :
    (s.issue w).readData = s.readData := rfl
@[simp] theorem issue_script (s : State) (w : Word) :
    (s.issue w).script = s.script := rfl

/-! ### State.clearKeys -/

@[simp] theorem clearKeys_params (s : State) :
    (s.clearKeys).params = s.params := rfl
@[simp] theorem clearKeys_rst (s : State) :
    (s.clearKeys).rst = s.rst := rfl
@[simp] theorem clearKeys_phase (s : State) :
    (s.clearKeys).phase = s.phase := rfl
@[simp] theorem clearKeys_ctrl (s : State) :
    (s.clearKeys).ctrl = s.ctrl := rfl
@[simp] theorem clearKeys_done (s : State) :
    (s.clearKeys).done = s.done := rfl
@[simp] theorem clearKeys_werr (s : State) :
    (s.clearKeys).werr = s.werr := rfl
@[simp] theorem clearKeys_buserr (s : State) :
    (s.clearKeys).buserr = s.buserr := rfl
@[simp] theorem clearKeys_errCode (s : State) :
    (s.clearKeys).errCode = s.errCode := rfl
@[simp] theorem clearKeys_errDetail (s : State) :
    (s.clearKeys).errDetail = s.errDetail := rfl
@[simp] theorem clearKeys_inLen (s : State) :
    (s.clearKeys).inLen = s.inLen := rfl
@[simp] theorem clearKeys_outLen (s : State) :
    (s.clearKeys).outLen = s.outLen := rfl
@[simp] theorem clearKeys_hdrLen (s : State) :
    (s.clearKeys).hdrLen = s.hdrLen := rfl
@[simp] theorem clearKeys_hdr (s : State) :
    (s.clearKeys).hdr = s.hdr := rfl
@[simp] theorem clearKeys_keys (s : State) :
    (s.clearKeys).keys = zeroKeys := rfl
@[simp] theorem clearKeys_inBuf (s : State) :
    (s.clearKeys).inBuf = s.inBuf := rfl
@[simp] theorem clearKeys_outBuf (s : State) :
    (s.clearKeys).outBuf = s.outBuf := rfl
@[simp] theorem clearKeys_readData (s : State) :
    (s.clearKeys).readData = s.readData := rfl
@[simp] theorem clearKeys_script (s : State) :
    (s.clearKeys).script = s.script := rfl

/-! ### State.finish -/

@[simp] theorem finish_params (s : State) :
    (s.finish).params = s.params := rfl
@[simp] theorem finish_rst (s : State) :
    (s.finish).rst = s.rst := rfl
@[simp] theorem finish_phase (s : State) :
    (s.finish).phase = .idle := rfl
@[simp] theorem finish_ctrl (s : State) :
    (s.finish).ctrl = s.ctrl := rfl
@[simp] theorem finish_done (s : State) :
    (s.finish).done = true := rfl
@[simp] theorem finish_werr (s : State) :
    (s.finish).werr = s.werr := rfl
@[simp] theorem finish_buserr (s : State) :
    (s.finish).buserr = s.buserr := rfl
@[simp] theorem finish_errCode (s : State) :
    (s.finish).errCode = s.errCode := rfl
@[simp] theorem finish_errDetail (s : State) :
    (s.finish).errDetail = s.errDetail := rfl
@[simp] theorem finish_inLen (s : State) :
    (s.finish).inLen = s.inLen := rfl
@[simp] theorem finish_outLen (s : State) :
    (s.finish).outLen = s.outLen := rfl
@[simp] theorem finish_hdrLen (s : State) :
    (s.finish).hdrLen = s.hdrLen := rfl
@[simp] theorem finish_hdr (s : State) :
    (s.finish).hdr = s.hdr := rfl
@[simp] theorem finish_keys (s : State) :
    (s.finish).keys = s.keys := rfl
@[simp] theorem finish_inBuf (s : State) :
    (s.finish).inBuf = s.inBuf := rfl
@[simp] theorem finish_outBuf (s : State) :
    (s.finish).outBuf = s.outBuf := rfl
@[simp] theorem finish_readData (s : State) :
    (s.finish).readData = s.readData := rfl
@[simp] theorem finish_script (s : State) :
    (s.finish).script = s.script := rfl

/-! ### State.raiseError -/

@[simp] theorem raiseError_params (s : State) (e : CmdError) :
    (s.raiseError e).params = s.params := rfl
@[simp] theorem raiseError_rst (s : State) (e : CmdError) :
    (s.raiseError e).rst = s.rst := rfl
@[simp] theorem raiseError_phase (s : State) (e : CmdError) :
    (s.raiseError e).phase = .idle := rfl
@[simp] theorem raiseError_ctrl (s : State) (e : CmdError) :
    (s.raiseError e).ctrl = s.ctrl := rfl
@[simp] theorem raiseError_done (s : State) (e : CmdError) :
    (s.raiseError e).done = true := rfl
@[simp] theorem raiseError_werr (s : State) (e : CmdError) :
    (s.raiseError e).werr = s.werr := rfl
@[simp] theorem raiseError_buserr (s : State) (e : CmdError) :
    (s.raiseError e).buserr = s.buserr := rfl
@[simp] theorem raiseError_errCode (s : State) (e : CmdError) :
    (s.raiseError e).errCode = errorCode e := rfl
@[simp] theorem raiseError_errDetail (s : State) (e : CmdError) :
    (s.raiseError e).errDetail = errorDetail e := rfl
@[simp] theorem raiseError_inLen (s : State) (e : CmdError) :
    (s.raiseError e).inLen = s.inLen := rfl
@[simp] theorem raiseError_outLen (s : State) (e : CmdError) :
    (s.raiseError e).outLen = 0 := rfl
@[simp] theorem raiseError_hdrLen (s : State) (e : CmdError) :
    (s.raiseError e).hdrLen = s.hdrLen := rfl
@[simp] theorem raiseError_hdr (s : State) (e : CmdError) :
    (s.raiseError e).hdr = s.hdr := rfl
@[simp] theorem raiseError_keys (s : State) (e : CmdError) :
    (s.raiseError e).keys = s.keys := rfl
@[simp] theorem raiseError_inBuf (s : State) (e : CmdError) :
    (s.raiseError e).inBuf = s.inBuf := rfl
@[simp] theorem raiseError_outBuf (s : State) (e : CmdError) :
    (s.raiseError e).outBuf = [] := rfl
@[simp] theorem raiseError_readData (s : State) (e : CmdError) :
    (s.raiseError e).readData = s.readData := rfl
@[simp] theorem raiseError_script (s : State) (e : CmdError) :
    (s.raiseError e).script = s.script := rfl

/-! ### State.storeOutput of a byte string -/

@[simp] theorem storeBytes_params (s : State) (b : Bytes) :
    (s.storeOutput (.bytes b)).params = s.params := rfl
@[simp] theorem storeBytes_rst (s : State) (b : Bytes) :
    (s.storeOutput (.bytes b)).rst = s.rst := rfl
@[simp] theorem storeBytes_phase (s : State) (b : Bytes) :
    (s.storeOutput (.bytes b)).phase = s.phase := rfl
@[simp] theorem storeBytes_ctrl (s : State) (b : Bytes) :
    (s.storeOutput (.bytes b)).ctrl = s.ctrl := rfl
@[simp] theorem storeBytes_done (s : State) (b : Bytes) :
    (s.storeOutput (.bytes b)).done = s.done := rfl
@[simp] theorem storeBytes_werr (s : State) (b : Bytes) :
    (s.storeOutput (.bytes b)).werr = s.werr := rfl
@[simp] theorem storeBytes_buserr (s : State) (b : Bytes) :
    (s.storeOutput (.bytes b)).buserr = s.buserr := rfl
@[simp] theorem storeBytes_errCode (s : State) (b : Bytes) :
    (s.storeOutput (.bytes b)).errCode = s.errCode := rfl
@[simp] theorem storeBytes_errDetail (s : State) (b : Bytes) :
    (s.storeOutput (.bytes b)).errDetail = s.errDetail := rfl
@[simp] theorem storeBytes_inLen (s : State) (b : Bytes) :
    (s.storeOutput (.bytes b)).inLen = s.inLen := rfl
@[simp] theorem storeBytes_outLen (s : State) (b : Bytes) :
    (s.storeOutput (.bytes b)).outLen = BitVec.ofNat 17 b.length := rfl
@[simp] theorem storeBytes_hdrLen (s : State) (b : Bytes) :
    (s.storeOutput (.bytes b)).hdrLen = s.hdrLen := rfl
@[simp] theorem storeBytes_hdr (s : State) (b : Bytes) :
    (s.storeOutput (.bytes b)).hdr = s.hdr := rfl
@[simp] theorem storeBytes_keys (s : State) (b : Bytes) :
    (s.storeOutput (.bytes b)).keys = s.keys := rfl
@[simp] theorem storeBytes_inBuf (s : State) (b : Bytes) :
    (s.storeOutput (.bytes b)).inBuf = s.inBuf := rfl
@[simp] theorem storeBytes_outBuf (s : State) (b : Bytes) :
    (s.storeOutput (.bytes b)).outBuf = Memory.ofBytes b := rfl
@[simp] theorem storeBytes_readData (s : State) (b : Bytes) :
    (s.storeOutput (.bytes b)).readData = s.readData := rfl
@[simp] theorem storeBytes_script (s : State) (b : Bytes) :
    (s.storeOutput (.bytes b)).script = s.script := rfl

@[simp] theorem storeKeep_eq (s : State) : s.storeOutput .keep = s := rfl

/-! ### State.acknowledge -/

@[simp] theorem acknowledge_params (s : State) (v : Word) :
    (s.acknowledge v).params = s.params := rfl
@[simp] theorem acknowledge_rst (s : State) (v : Word) :
    (s.acknowledge v).rst = s.rst := rfl
@[simp] theorem acknowledge_phase (s : State) (v : Word) :
    (s.acknowledge v).phase = s.phase := rfl
@[simp] theorem acknowledge_ctrl (s : State) (v : Word) :
    (s.acknowledge v).ctrl = s.ctrl := rfl
@[simp] theorem acknowledge_done (s : State) (v : Word) :
    (s.acknowledge v).done = (s.done && !v.getLsbD 1) := rfl
@[simp] theorem acknowledge_werr (s : State) (v : Word) :
    (s.acknowledge v).werr = (s.werr && !v.getLsbD 3) := rfl
@[simp] theorem acknowledge_buserr (s : State) (v : Word) :
    (s.acknowledge v).buserr = (s.buserr && !v.getLsbD 4) := rfl
@[simp] theorem acknowledge_errCode (s : State) (v : Word) :
    (s.acknowledge v).errCode = s.errCode := rfl
@[simp] theorem acknowledge_errDetail (s : State) (v : Word) :
    (s.acknowledge v).errDetail = s.errDetail := rfl
@[simp] theorem acknowledge_inLen (s : State) (v : Word) :
    (s.acknowledge v).inLen = s.inLen := rfl
@[simp] theorem acknowledge_outLen (s : State) (v : Word) :
    (s.acknowledge v).outLen = s.outLen := rfl
@[simp] theorem acknowledge_hdrLen (s : State) (v : Word) :
    (s.acknowledge v).hdrLen = s.hdrLen := rfl
@[simp] theorem acknowledge_hdr (s : State) (v : Word) :
    (s.acknowledge v).hdr = s.hdr := rfl
@[simp] theorem acknowledge_keys (s : State) (v : Word) :
    (s.acknowledge v).keys = s.keys := rfl
@[simp] theorem acknowledge_inBuf (s : State) (v : Word) :
    (s.acknowledge v).inBuf = s.inBuf := rfl
@[simp] theorem acknowledge_outBuf (s : State) (v : Word) :
    (s.acknowledge v).outBuf = s.outBuf := rfl
@[simp] theorem acknowledge_readData (s : State) (v : Word) :
    (s.acknowledge v).readData = s.readData := rfl
@[simp] theorem acknowledge_script (s : State) (v : Word) :
    (s.acknowledge v).script = s.script := rfl

/-! ### State.resetAll -/

@[simp] theorem resetAll_params (s : State) :
    (s.resetAll).params = s.params := rfl
@[simp] theorem resetAll_rst (s : State) :
    (s.resetAll).rst = s.rst := rfl
@[simp] theorem resetAll_phase (s : State) :
    (s.resetAll).phase = .idle := rfl
@[simp] theorem resetAll_ctrl (s : State) :
    (s.resetAll).ctrl = ⟨false, false⟩ := rfl
@[simp] theorem resetAll_done (s : State) :
    (s.resetAll).done = false := rfl
@[simp] theorem resetAll_werr (s : State) :
    (s.resetAll).werr = false := rfl
@[simp] theorem resetAll_buserr (s : State) :
    (s.resetAll).buserr = false := rfl
@[simp] theorem resetAll_errCode (s : State) :
    (s.resetAll).errCode = 0 := rfl
@[simp] theorem resetAll_errDetail (s : State) :
    (s.resetAll).errDetail = 0 := rfl
@[simp] theorem resetAll_inLen (s : State) :
    (s.resetAll).inLen = 0 := rfl
@[simp] theorem resetAll_outLen (s : State) :
    (s.resetAll).outLen = 0 := rfl
@[simp] theorem resetAll_hdrLen (s : State) :
    (s.resetAll).hdrLen = 0 := rfl
@[simp] theorem resetAll_hdr (s : State) :
    (s.resetAll).hdr = ⟨0, 0, 0, 0, 0, 0, 0, 0, 0⟩ := rfl
@[simp] theorem resetAll_keys (s : State) :
    (s.resetAll).keys = zeroKeys := rfl
@[simp] theorem resetAll_inBuf (s : State) :
    (s.resetAll).inBuf = [] := rfl
@[simp] theorem resetAll_outBuf (s : State) :
    (s.resetAll).outBuf = [] := rfl
@[simp] theorem resetAll_readData (s : State) :
    (s.resetAll).readData = s.readData := rfl
@[simp] theorem resetAll_script (s : State) :
    (s.resetAll).script = s.script := rfl

/-! ### State.resetWith -/

@[simp] theorem resetWith_params (p : Params) : (State.resetWith p).params = p := rfl
@[simp] theorem resetWith_rst (p : Params) : (State.resetWith p).rst = false := rfl
@[simp] theorem resetWith_phase (p : Params) : (State.resetWith p).phase = .idle := rfl
@[simp] theorem resetWith_ctrl (p : Params) : (State.resetWith p).ctrl = ⟨false, false⟩ := rfl
@[simp] theorem resetWith_done (p : Params) : (State.resetWith p).done = false := rfl
@[simp] theorem resetWith_werr (p : Params) : (State.resetWith p).werr = false := rfl
@[simp] theorem resetWith_buserr (p : Params) : (State.resetWith p).buserr = false := rfl
@[simp] theorem resetWith_errCode (p : Params) : (State.resetWith p).errCode = 0 := rfl
@[simp] theorem resetWith_errDetail (p : Params) : (State.resetWith p).errDetail = 0 := rfl
@[simp] theorem resetWith_inLen (p : Params) : (State.resetWith p).inLen = 0 := rfl
@[simp] theorem resetWith_outLen (p : Params) : (State.resetWith p).outLen = 0 := rfl
@[simp] theorem resetWith_hdrLen (p : Params) : (State.resetWith p).hdrLen = 0 := rfl
@[simp] theorem resetWith_hdr (p : Params) : (State.resetWith p).hdr = ⟨0, 0, 0, 0, 0, 0, 0, 0, 0⟩ := rfl
@[simp] theorem resetWith_keys (p : Params) : (State.resetWith p).keys = zeroKeys := rfl
@[simp] theorem resetWith_inBuf (p : Params) : (State.resetWith p).inBuf = [] := rfl
@[simp] theorem resetWith_outBuf (p : Params) : (State.resetWith p).outBuf = [] := rfl
@[simp] theorem resetWith_readData (p : Params) : (State.resetWith p).readData = 0 := rfl
@[simp] theorem resetWith_script (p : Params) : (State.resetWith p).script = [] := rfl

/-! ### The snapshot -/

@[simp] theorem capture_cmd (s : State) (w : Word) : (s.capture w).cmd = w := rfl
@[simp] theorem capture_ctrl (s : State) (w : Word) : (s.capture w).ctrl = s.ctrl := rfl
@[simp] theorem capture_inLen (s : State) (w : Word) : (s.capture w).inLen = s.inLen := rfl
@[simp] theorem capture_hdr (s : State) (w : Word) : (s.capture w).hdr = s.hdr := rfl
@[simp] theorem capture_keys (s : State) (w : Word) : (s.capture w).keys = s.keys := rfl
@[simp] theorem capture_inBuf (s : State) (w : Word) : (s.capture w).inBuf = s.inBuf := rfl

/-- While BUSY the operands are the snapshot's. -/
theorem operands_busy {s : State} {S : Snapshot} (h : s.phase = .busy S) : s.operands = S := by
  simp [State.operands, h]

/-- While IDLE the operands are the registers as they stand. -/
theorem operands_idle {s : State} (h : s.phase = .idle) : s.operands = s.capture 0 := by
  simp [State.operands, h]

/-- BUSY is that the engine holds a snapshot. -/
theorem isBusy_iff (s : State) : s.isBusy = true ↔ ∃ S, s.phase = .busy S := by
  unfold State.isBusy
  cases s.phase <;> simp

/-- The engine has a word to run exactly while BUSY with rst released. -/
theorem fetch_eq_some_iff (s : State) (w : Word) :
    s.fetch = some w ↔ s.rst = false ∧ ∃ S, s.phase = .busy S ∧ S.cmd = w := by
  unfold State.fetch
  cases s.rst <;> cases s.phase <;> simp

end Sys2Proof.Machine
end

