-- ==== Sys2Proof/Machine/Script.lean ====
section
/-! DEFINITION. The host script syntax: each line and the bus transactions it expands to (R140, R141). A program
enters the model as the events of its lines in State.script, between which the engine's turns fall. -/

namespace Sys2Proof.Machine

/-- `off(R)`: the window offset of a register (R32). -/
def regOffset : Reg → Nat
  | .id => 0x000
  | .bufSize => 0x004
  | .ctrl => 0x008
  | .cmd => 0x00C
  | .status => 0x010
  | .errCode => 0x014
  | .errDetail => 0x018
  | .inLen => 0x01C
  | .outLen => 0x020
  | .hdrLen => 0x024
  | .hdrVersion => 0x028
  | .hdrEncType => 0x02C
  | .hdrFlags => 0x030
  | .msgId => 0x034
  | .srcNodeLo => 0x038
  | .srcNodeHi => 0x03C
  | .dstNodeLo => 0x040
  | .dstNodeHi => 0x044
  | .keyId => 0x048
  | .keyType => 0x04C
  | .dataKey0 => 0x050
  | .dataKey1 => 0x054
  | .dataKey2 => 0x058
  | .dataKey3 => 0x05C
  | .intKey0 => 0x060
  | .intKey1 => 0x064
  | .intKey2 => 0x068
  | .intKey3 => 0x06C
  | .intKey4 => 0x070

/-- What a line names: a register, `IN_BUF+k` or `OUT_BUF+k` (R140). -/
inductive Place where
  | reg (r : Reg)
  | inBuf (k : Nat)
  | outBuf (k : Nat)
  deriving DecidableEq, Repr

/-- The window offset of a place (R140). -/
def placeOffset : Place → Nat
  | .reg r => regOffset r
  | .inBuf k => 0x10000 + k
  | .outBuf k => 0x20000 + k

/-- One line of a host script (R140, R141). `wait` carries the number of its STATUS reads, which is not fixed. -/
inductive Line where
  | write (p : Place) (v : Word)
  | read (p : Place)
  | cmd (i : Instr)
  | wait (reads : Nat)
  | setnodeSrc (v : BitVec 64)
  | setnodeDst (v : BitVec 64)
  | loadbuf (b : Bytes)
  | loadkeyCtrSha1 (d16 i20 : Bytes)
  | loadkeyEax (d16 : Bytes)
  | clearstatus
  | readout (n : Nat)
  deriving DecidableEq, Repr

/-- `MemWrite(off, 4, v)` as an event of an instance at BASE. -/
def writeEvent (base off : Nat) (v : Word) : Event := .write (base + off) 4 v

/-- `MemRead(off, 4)` as an event of an instance at BASE. -/
def readEvent (base off : Nat) : Event := .read (base + off) 4

/-- `uLE(s[4j..4j+4))`, zero bytes standing for the bytes past the end (R141). -/
def scriptWord (s : Bytes) (j : Nat) : Word := BitVec.ofNat 32 (uLE (slice s (4 * j) (4 * j + 4)))

/-- The writes of the words 0 to n - 1 of s at the offsets off, off + 4, ... -/
def wordWrites (base off n : Nat) (s : Bytes) : List Event :=
  (List.range n).map fun j => writeEvent base (off + 4 * j) (scriptWord s j)

/-- The bus transactions of a line (R140, R141). -/
def lineEvents (base : Nat) : Line → List Event
  | .write p v => [writeEvent base (placeOffset p) v]
  | .read p => [readEvent base (placeOffset p)]
  | .cmd i => [writeEvent base 0x00C (encode i)]
  | .wait n => List.replicate n (readEvent base 0x010)
  | .setnodeSrc v =>
    [writeEvent base 0x038 (v.setWidth 32), writeEvent base 0x03C (v.extractLsb' 32 32)]
  | .setnodeDst v =>
    [writeEvent base 0x040 (v.setWidth 32), writeEvent base 0x044 (v.extractLsb' 32 32)]
  | .loadbuf b =>
    wordWrites base 0x10000 ((b.length + 3) / 4) b ++ [writeEvent base 0x01C (BitVec.ofNat 32 b.length)]
  | .loadkeyCtrSha1 d16 i20 =>
    wordWrites base 0x050 4 d16 ++ wordWrites base 0x060 5 i20 ++ [writeEvent base 0x04C 1]
  | .loadkeyEax d16 => wordWrites base 0x050 4 d16 ++ [writeEvent base 0x04C 2]
  | .clearstatus => [writeEvent base 0x010 0x1A]
  | .readout n => (List.range ((n + 3) / 4)).map fun j => readEvent base (0x20000 + 4 * j)

/-- The bus transactions of a script, line after line (R140). -/
def scriptEvents (base : Nat) (lines : List Line) : List Event := lines.flatMap (lineEvents base)

end Sys2Proof.Machine
end

