-- ==== Sys2Proof/Laws/Bus.lean ====
section
/-! SUPPORT. The register map and the bus transactions: every case of a host access, said once. -/

namespace Sys2Proof.Machine

/-- The register map has each register at its offset (R32). -/
theorem regAt_regOffset (r : Reg) : regAt (regOffset r) = some r := by cases r <;> rfl

/-- Every register is 4-byte aligned and at 0x070 or below (R32). -/
theorem regOffset_legal (r : Reg) : regOffset r % 4 = 0 ∧ regOffset r ≤ 0x070 := by
  cases r <;> decide

/-- A register offset reaches its register (R32, R81). -/
theorem targetAt_regOffset (n : Nat) (r : Reg) : targetAt n (regOffset r) = .reg r := by
  have h := (regOffset_legal r).2
  have : regOffset r < 0x10000 := by omega
  simp [targetAt, this, regAt_regOffset]

/-- Every case of MemWrite (R85 to R87, R93, R361). -/
theorem memWrite_cases (s : State) (off size : Nat) (v : Word) :
    (s.rst = true ∧ s.memWrite off size v = s) ∨
    (s.rst = false ∧ legalAccess off size = false ∧ s.memWrite off size v = { s with buserr := true }) ∨
    (s.rst = false ∧ legalAccess off size = true ∧ s.isBusy = true ∧
      writableWhileBusy (targetAt s.params.bufBytes off) = false ∧
      s.memWrite off size v = { s with werr := true }) ∨
    (s.rst = false ∧ legalAccess off size = true ∧
      (s.isBusy = false ∨ writableWhileBusy (targetAt s.params.bufBytes off) = true) ∧
      s.memWrite off size v = s.writeTarget v (targetAt s.params.bufBytes off)) := by
  unfold State.memWrite
  cases s.rst <;> cases legalAccess off size <;> cases s.isBusy <;>
    cases writableWhileBusy (targetAt s.params.bufBytes off) <;> simp

/-- Every case of MemRead's effect (R87, R90, R361). -/
theorem memReadEffect_cases (s : State) (off size : Nat) :
    ((s.rst = true ∨ legalAccess off size = true) ∧ s.memReadEffect off size = s) ∨
    (s.rst = false ∧ legalAccess off size = false ∧
      s.memReadEffect off size = { s with buserr := true }) := by
  unfold State.memReadEffect
  cases s.rst <;> cases legalAccess off size <;> simp

/-- A CTRL write is a soft reset, or it sets the two enables (R36). -/
theorem writeCtrl_cases (s : State) (v : Word) :
    (v.getLsbD 1 = true ∧ s.writeCtrl v = s.resetAll) ∨
    (v.getLsbD 1 = false ∧ s.writeCtrl v = { s with ctrl := ⟨v.getLsbD 0, v.getLsbD 2⟩ }) := by
  unfold State.writeCtrl
  cases v.getLsbD 1 <;> simp

/-- Only CTRL and STATUS are written while BUSY (R93). -/
theorem writableWhileBusy_iff (t : Target) :
    writableWhileBusy t = true ↔ t = .reg .ctrl ∨ t = .reg .status := by
  cases t with
  | reg r => cases r <;> simp [writableWhileBusy]
  | _ => simp [writableWhileBusy]

/-- A register is at its offset and at no other (R32). -/
theorem regAt_eq_some_iff (off : Nat) (r : Reg) : regAt off = some r ↔ off = regOffset r := by
  constructor
  · intro h
    unfold regAt at h
    split at h <;> cases h <;> rfl
  · rintro rfl
    exact regAt_regOffset r

/-- An access that reaches a register is at the register's offset (R32, R81). -/
theorem eq_regOffset_of_targetAt {n off : Nat} {r : Reg} (h : targetAt n off = .reg r) : off = regOffset r := by
  apply (regAt_eq_some_iff _ _).1
  unfold targetAt at h
  split at h
  · split at h <;> cases h
    assumption
  · split at h
    · split at h <;> cases h
    · split at h
      · split at h <;> cases h
      · cases h

/-- The words of IN_BUF are at 0x10000 + k (R81, R85). -/
theorem targetAt_inBuf {n k : Nat} (hn : n ≤ 65536) (hk : k + 4 ≤ n) : targetAt n (0x10000 + k) = .inBuf k := by
  have h1 : ¬ (0x10000 + k < 0x10000) := by omega
  have h2 : 0x10000 + k < 0x20000 := by omega
  have h3 : 0x10000 + k + 4 ≤ 0x10000 + n := by omega
  simp only [targetAt, h1, h2, h3, if_true, if_false]
  exact congrArg _ (Nat.add_sub_cancel_left ..)

/-- The words of OUT_BUF are at 0x20000 + k (R81, R85). -/
theorem targetAt_outBuf {n k : Nat} (hn : n ≤ 65536) (hk : k + 4 ≤ n) : targetAt n (0x20000 + k) = .outBuf k := by
  have h1 : ¬ (0x20000 + k < 0x10000) := by omega
  have h2 : ¬ (0x20000 + k < 0x20000) := by omega
  have h3 : 0x20000 + k < 0x30000 := by omega
  have h4 : 0x20000 + k + 4 ≤ 0x20000 + n := by omega
  simp only [targetAt, h1, h2, h3, h4, if_true, if_false]
  exact congrArg _ (Nat.add_sub_cancel_left ..)

/-- A legal write while IDLE is accepted (R85). -/
theorem memWrite_idle {s : State} {off : Nat} (v : Word) (hr : s.rst = false) (hp : s.phase = .idle)
    (ha : off % 4 = 0) : s.memWrite off 4 v = s.writeTarget v (targetAt s.params.bufBytes off) := by
  simp [State.memWrite, hr, legalAccess, ha, State.isBusy, hp]

/-- A legal read while IDLE returns its target's word (R85). -/
theorem memReadValue_idle {s : State} {off : Nat} (hr : s.rst = false) (hp : s.phase = .idle)
    (ha : off % 4 = 0) : s.memReadValue off 4 = s.readTarget (targetAt s.params.bufBytes off) := by
  simp [State.memReadValue, hr, legalAccess, ha, State.isBusy, hp]

/-- No bus write changes the parameters, the schedule or the level of rst. -/
theorem memWrite_frame (s : State) (off size : Nat) (v : Word) :
    (s.memWrite off size v).params = s.params ∧ (s.memWrite off size v).script = s.script ∧
    (s.memWrite off size v).rst = s.rst := by
  rcases memWrite_cases s off size v with ⟨-, h⟩ | ⟨-, -, h⟩ | ⟨-, -, -, -, h⟩ | ⟨-, -, -, h⟩ <;> rw [h]
  · exact ⟨rfl, rfl, rfl⟩
  · exact ⟨rfl, rfl, rfl⟩
  · exact ⟨rfl, rfl, rfl⟩
  · cases targetAt s.params.bufBytes off with
    | reg r =>
      cases r with
      | ctrl =>
        rcases writeCtrl_cases s v with ⟨-, h⟩ | ⟨-, h⟩ <;> simp [State.writeTarget, State.writeReg, h]
      | _ => exact ⟨rfl, rfl, rfl⟩
    | _ => exact ⟨rfl, rfl, rfl⟩

/-- What a bus read leaves: everything but BUSERR and the data word on the host's side (R87, R90). -/
theorem memRead_frame (s : State) (off size : Nat) :
    { s.memRead off size with buserr := s.buserr, readData := s.readData } = s := by
  unfold State.memRead
  rcases memReadEffect_cases s off size with ⟨-, h⟩ | ⟨-, -, h⟩ <;> rw [h]

end Sys2Proof.Machine
end

