-- ==== Sys2Proof/Laws/Bytes.lean ====
section
/-! SUPPORT. Byte strings: lengths, and LE and BE with their inverses (R12). -/

namespace Sys2Proof.Machine

@[simp] theorem zeros_length (n : Nat) : (zeros n).length = n := List.length_replicate

@[simp] theorem leBytes_length (n v : Nat) : (leBytes n v).length = n := by
  induction n generalizing v with
  | zero => rfl
  | succ n ih => simp [leBytes, ih]

@[simp] theorem beBytes_length (n v : Nat) : (beBytes n v).length = n := by simp [beBytes]

@[simp] theorem xorBytes_length (s t : Bytes) : (xorBytes s t).length = min s.length t.length := by
  simp [xorBytes]

@[simp] theorem trunc_length (s : Bytes) (n : Nat) : (trunc s n).length = min n s.length := by
  simp [trunc]

@[simp] theorem slice_length (s : Bytes) (i j : Nat) : (slice s i j).length = min j s.length - i := by
  simp [slice]

/-- uLE undoes LE, up to the width. -/
theorem uLE_leBytes (n v : Nat) : uLE (leBytes n v) = v % 256 ^ n := by
  induction n generalizing v with
  | zero => simp [leBytes, uLE, Nat.mod_one]
  | succ n ih =>
    have h : (BitVec.ofNat 8 v).toNat = v % 256 := by simp
    rw [leBytes, uLE, ih, h, Nat.pow_succ', Nat.mod_mul]

/-- uBE undoes BE, up to the width. -/
theorem uBE_beBytes (n v : Nat) : uBE (beBytes n v) = v % 256 ^ n := by
  simp [uBE, beBytes, uLE_leBytes]

/-- The number of a little-endian string is below 256 to its length. -/
theorem uLE_lt (s : Bytes) : uLE s < 256 ^ s.length := by
  induction s with
  | nil => simp [uLE]
  | cons b s ih =>
    have hb := b.isLt
    simp only [uLE, List.length_cons, Nat.pow_succ']
    omega

/-- LE undoes uLE. -/
theorem leBytes_uLE (s : Bytes) : leBytes s.length (uLE s) = s := by
  induction s with
  | nil => rfl
  | cons b s ih =>
    have hb := b.isLt
    have h1 : (b.toNat + 256 * uLE s) / 256 = uLE s := by omega
    simp only [uLE, List.length_cons, leBytes, h1, ih]
    congr 1
    apply BitVec.eq_of_toNat_eq
    rw [BitVec.toNat_ofNat]
    omega

/-- Byte j of LE is the j-th base-256 digit. -/
theorem leBytes_getElem? (n v j : Nat) :
    (leBytes n v)[j]? = if j < n then some (BitVec.ofNat 8 (v / 256 ^ j)) else none := by
  induction n generalizing v j with
  | zero => simp [leBytes]
  | succ n ih =>
    cases j with
    | zero => simp [leBytes]
    | succ j => simp [leBytes, ih, Nat.div_div_eq_div_mul, Nat.pow_succ']

/-- A string laid before another one is what slice reads back. -/
theorem slice_append_left (s t : Bytes) : slice (s ++ t) 0 s.length = s := by simp [slice]

/-- The part of `a ++ b ++ c` that b occupies. -/
theorem slice_append_middle (a b c : Bytes) :
    slice (a ++ b ++ c) a.length (a.length + b.length) = b := by
  simp [slice, List.take_append]

end Sys2Proof.Machine
end

