-- ==== Sys2Proof/Laws/Crypto.lean ====
section
/-! SUPPORT. The cryptographic functions: lengths of their results, and counter mode undone by itself (R200 to
R261). -/

namespace Sys2Proof.Machine

/-- A block is 16 bytes (R200). -/
@[simp] theorem aes128_length (key block : Bytes) : (aes128 key block).length = 16 := rfl

@[simp] theorem keystreamBlock_length (key c0 : Bytes) (j : Nat) : (keystreamBlock key c0 j).length = 16 := rfl

/-- The keystream of n blocks is 16 n bytes (R215). -/
theorem keystream_length (key c0 : Bytes) (n : Nat) : (keystream key c0 n).length = 16 * n := by
  induction n with
  | zero => rfl
  | succ n ih =>
    rw [keystream, List.range_succ, List.flatMap_append, List.length_append]
    rw [keystream] at ih
    rw [ih]
    simp
    omega

/-- The keystream blocks cover the bytes (R215). -/
theorem le_blockCount (n : Nat) : n ≤ 16 * blockCount n := by
  unfold blockCount
  omega

/-- Counter mode keeps the length (R215). -/
@[simp] theorem aes128Ctr_length (key c0 x : Bytes) : (aes128Ctr key c0 x).length = x.length := by
  have := le_blockCount x.length
  simp [aes128Ctr, keystream_length]
  omega

/-- Exclusive or with the same string twice gives the first string back. -/
theorem xorBytes_cancel (s t : Bytes) (h : s.length ≤ t.length) : xorBytes (xorBytes s t) t = s := by
  induction s generalizing t with
  | nil => simp [xorBytes]
  | cons b s ih =>
    cases t with
    | nil => simp at h
    | cons c t =>
      have hcb : (b ^^^ c) ^^^ c = b := by simp
      have := ih t (by simpa using h)
      simp only [xorBytes] at this ⊢
      simp only [List.zipWith_cons_cons, hcb, this]

@[simp] theorem sha1_length (m : Bytes) : (sha1 m).length = 20 := by simp [sha1]

/-- An HMAC-SHA1 tag is 20 bytes (R225). -/
@[simp] theorem hmacSha1_length (key m : Bytes) : (hmacSha1 key m).length = 20 := by simp [hmacSha1]

@[simp] theorem cmac_length (key m : Bytes) : (cmac key m).length = 16 := rfl

@[simp] theorem omac_length (key : Bytes) (t : Byte) (m : Bytes) : (omac key t m).length = 16 := rfl

/-- The full EAX tag is 16 bytes (R254). -/
@[simp] theorem eaxTag_length (key nonce aad c : Bytes) : (eaxTag key nonce aad c).length = 16 := by
  simp [eaxTag]

/-- A sealed region is the payload and its tag long (R135, R230, R260). -/
theorem sealRegion_length (enc : EncType) (h : MsgHeader) (S : Snapshot) (payload : Bytes) :
    (sealRegion enc h S payload).length = payload.length + tagLen enc := by
  cases enc <;> simp [sealRegion, tagLen, sealCtrSha1, sealEax, eaxEnc]

/-- An opened payload is no longer than its region (R231, R261). -/
theorem openRegion_length {enc : EncType} {h : MsgHeader} {S : Snapshot} {region payload : Bytes}
    (ho : openRegion enc h S region = .ok payload) : payload.length ≤ region.length := by
  cases enc with
  | none => cases ho; exact Nat.le_refl _
  | aes128CtrSha1 =>
    simp only [openRegion, openCtrSha1] at ho
    split at ho
    · cases ho; simp
    · cases ho
  | aes128Eax64 =>
    simp only [openRegion, openEax, eaxDec] at ho
    split at ho <;> cases ho
    rename_i hd
    split at hd <;> cases hd
    simp
  | aes128Eax128 =>
    simp only [openRegion, openEax, eaxDec] at ho
    split at ho <;> cases ho
    rename_i hd
    split at hd <;> cases hd
    simp

end Sys2Proof.Machine
end

