-- ==== Sys2Proof/Laws/Memory.lean ====
section
/-! SUPPORT. The buffers: a read after a write, and the canonical form that every operation keeps. -/

namespace Sys2Proof.Machine

@[simp] theorem get_nil (k : Nat) : Memory.get [] k = 0 := rfl

@[simp] theorem toBytes_length (m : Memory) (n : Nat) : (Memory.toBytes m n).length = n := by
  simp [Memory.toBytes]

/-- Byte j of the first n bytes. -/
theorem toBytes_getElem? (m : Memory) (n j : Nat) :
    (Memory.toBytes m n)[j]? = if j < n then some (Memory.get m j) else none := by
  unfold Memory.toBytes
  by_cases h : j < n <;> simp [h]

/-- An offset that no entry lists reads 0. -/
theorem get_eq_zero_of_forall_ne {m : Memory} {k : Nat} (h : ∀ c ∈ m, c.1 ≠ k) : Memory.get m k = 0 := by
  induction m with
  | nil => rfl
  | cons c m ih =>
    have hc : c.1 ≠ k := h c (by simp)
    simp only [Memory.get, hc, if_false]
    exact ih fun d hd => h d (by simp [hd])

/-- Removing the entries of k leaves every other offset. -/
theorem get_filter_ne (m : Memory) (k j : Nat) (h : j ≠ k) :
    Memory.get (m.filter fun c => c.1 != k) j = Memory.get m j := by
  induction m with
  | nil => rfl
  | cons c m ih =>
    by_cases hc : c.1 = k
    · have : c.1 ≠ j := fun e => h (e.symm.trans hc)
      simp [Memory.get, hc, ih, Ne.symm h]
    · simp [Memory.get, hc, ih]

/-- Removing the entries of k makes it read 0. -/
theorem get_filter_self (m : Memory) (k : Nat) : Memory.get (m.filter fun c => c.1 != k) k = 0 :=
  get_eq_zero_of_forall_ne (by simp)

/-- Inserting at k leaves every other offset. -/
theorem get_insert_ne (m : Memory) (k j : Nat) (b : Byte) (h : j ≠ k) :
    Memory.get (Memory.insert k b m) j = Memory.get m j := by
  induction m with
  | nil => simp [Memory.insert, Memory.get, Ne.symm h]
  | cons c m ih =>
    unfold Memory.insert
    split
    · simp [Memory.get, Ne.symm h]
    · simp [Memory.get, ih]

/-- Inserting at an unlisted k makes it read the byte. -/
theorem get_insert_self (m : Memory) (k : Nat) (b : Byte) (h : ∀ c ∈ m, c.1 ≠ k) :
    Memory.get (Memory.insert k b m) k = b := by
  induction m with
  | nil => simp [Memory.insert, Memory.get]
  | cons c m ih =>
    unfold Memory.insert
    split
    · simp [Memory.get]
    · have hc : c.1 ≠ k := h c (by simp)
      simp only [Memory.get, hc, if_false]
      exact ih fun d hd => h d (by simp [hd])

/-- A read after a write: the byte written there, and every other byte as before. -/
theorem get_set (m : Memory) (k j : Nat) (b : Byte) :
    Memory.get (Memory.set m k b) j = if j = k then b else Memory.get m j := by
  unfold Memory.set
  by_cases hb : b = 0
  · by_cases hj : j = k
    · subst hj; simp [hb, get_filter_self]
    · simp [hb, hj, get_filter_ne _ _ _ hj]
  · by_cases hj : j = k
    · subst hj
      simp only [hb, if_false, if_true]
      exact get_insert_self _ _ _ (by simp)
    · simp only [hb, if_false, hj]
      rw [get_insert_ne _ _ _ _ hj, get_filter_ne _ _ _ hj]

/-- A read after a write of a string: its byte inside it, and every other byte as before. -/
theorem get_setBytes (m : Memory) (k j : Nat) (s : Bytes) :
    Memory.get (Memory.setBytes m k s) j
      = if k ≤ j ∧ j < k + s.length then s.getD (j - k) 0 else Memory.get m j := by
  induction s generalizing m k with
  | nil =>
    have : ¬ (k ≤ j ∧ j < k + ([] : Bytes).length) := by simp
    simp only [Memory.setBytes, this, if_false]
  | cons b s ih =>
    rw [Memory.setBytes, ih, get_set]
    by_cases hj : j = k
    · subst hj
      simp
    · by_cases h : k + 1 ≤ j ∧ j < k + 1 + s.length
      · have h2 : k ≤ j ∧ j < k + (b :: s).length := by simp only [List.length_cons]; omega
        have h3 : j - k = (j - (k + 1)) + 1 := by omega
        simp [h, h2, h3, -List.length_cons]
      · have h2 : ¬ (k ≤ j ∧ j < k + (b :: s).length) := by simp only [List.length_cons]; omega
        simp only [h, h2, hj, if_false]

/-- The buffer made from a string reads as the string from k on. -/
theorem get_ofBytesFrom (k j : Nat) (s : Bytes) :
    Memory.get (Memory.ofBytesFrom k s) j = if k ≤ j then s.getD (j - k) 0 else 0 := by
  induction s generalizing k with
  | nil => simp [Memory.ofBytesFrom]
  | cons b s ih =>
    have hcons : Memory.get (Memory.ofBytesFrom k (b :: s)) j
        = if j = k then b else Memory.get (Memory.ofBytesFrom (k + 1) s) j := by
      rw [Memory.ofBytesFrom]
      split
      case isTrue hb =>
        by_cases hj : j = k
        · subst hj; simp [hb, ih]
        · simp [hj]
      case isFalse hb => simp [Memory.get, eq_comm]
    rw [hcons, ih]
    by_cases hj : j = k
    · subst hj; simp
    · by_cases hle : k + 1 ≤ j
      · have h3 : j - k = (j - (k + 1)) + 1 := by omega
        have hle2 : k ≤ j := by omega
        simp [hj, hle, hle2, h3]
      · have hle2 : ¬ k ≤ j := by omega
        simp [hj, hle, hle2]

/-- The buffer `s ‖ zeros(...)` reads as s, and 0x00 past its end. -/
theorem get_ofBytes (s : Bytes) (j : Nat) : Memory.get (Memory.ofBytes s) j = s.getD j 0 := by
  simp [Memory.ofBytes, get_ofBytesFrom]

/-- The string read back from the buffer made of it. -/
theorem toBytes_ofBytes (s : Bytes) : Memory.toBytes (Memory.ofBytes s) s.length = s := by
  apply List.ext_getElem?
  intro j
  rw [toBytes_getElem?]
  by_cases h : j < s.length
  · simp [h, get_ofBytes, List.getD_eq_getElem?_getD]
  · simp [h]

/-! ### The canonical form -/

/-- Every entry of an insertion is the new one or an old one. -/
theorem mem_insert {m : Memory} {k : Nat} {b : Byte} {c : Host.Cell} :
    c ∈ Memory.insert k b m ↔ c = (k, b) ∨ c ∈ m := by
  induction m with
  | nil => simp [Memory.insert]
  | cons d m ih =>
    unfold Memory.insert
    split
    · simp
    · simp only [List.mem_cons, ih]
      tauto

/-- Inserting at an unlisted offset keeps the offsets rising. -/
theorem insert_sorted {m : Memory} {k : Nat} {b : Byte} (hs : m.Pairwise fun c d => c.1 < d.1)
    (hk : ∀ c ∈ m, c.1 ≠ k) : (Memory.insert k b m).Pairwise fun c d => c.1 < d.1 := by
  induction m with
  | nil => simp [Memory.insert]
  | cons c m ih =>
    rw [List.pairwise_cons] at hs
    unfold Memory.insert
    split
    case isTrue h =>
      refine List.pairwise_cons.2 ⟨fun d hd => ?_, List.pairwise_cons.2 hs⟩
      rcases List.mem_cons.1 hd with rfl | hd
      · exact h
      · exact Nat.lt_trans h (hs.1 d hd)
    case isFalse h =>
      have hck : c.1 ≠ k := hk c (by simp)
      refine List.pairwise_cons.2 ⟨fun d hd => ?_, ih hs.2 fun d hd => hk d (by simp [hd])⟩
      rcases mem_insert.1 hd with rfl | hd
      · simp only; omega
      · exact hs.1 d hd

/-- A write of one byte keeps the canonical form. -/
theorem set_wf {m : Memory} (k : Nat) (b : Byte) (h : Memory.wf m) : Memory.wf (Memory.set m k b) := by
  have hf : (m.filter fun c => c.1 != k).Pairwise (fun c d => c.1 < d.1) := h.1.filter _
  have hz : ∀ c ∈ m.filter (fun c => c.1 != k), c.2 ≠ 0 := fun c hc => h.2 c (List.mem_of_mem_filter hc)
  unfold Memory.set
  by_cases hb : b = 0
  · simp only [hb, if_true]; exact ⟨hf, hz⟩
  · simp only [hb, if_false]
    refine ⟨insert_sorted hf (by simp), fun c hc => ?_⟩
    rcases mem_insert.1 hc with rfl | hc
    · exact hb
    · exact hz c hc

/-- A write of a string keeps the canonical form. -/
theorem setBytes_wf {m : Memory} (k : Nat) (s : Bytes) (h : Memory.wf m) :
    Memory.wf (Memory.setBytes m k s) := by
  induction s generalizing m k with
  | nil => exact h
  | cons b s ih => exact ih (k + 1) (set_wf k b h)

/-- The entries of a buffer made from a string lie inside the string. -/
theorem mem_ofBytesFrom {k : Nat} {s : Bytes} {c : Host.Cell} (h : c ∈ Memory.ofBytesFrom k s) :
    k ≤ c.1 ∧ c.1 < k + s.length ∧ c.2 ≠ 0 := by
  induction s generalizing k with
  | nil => simp [Memory.ofBytesFrom] at h
  | cons b s ih =>
    rw [Memory.ofBytesFrom] at h
    split at h
    · have := ih h
      exact ⟨by omega, by simp only [List.length_cons]; omega, this.2.2⟩
    · rcases List.mem_cons.1 h with rfl | h
      · simpa using ‹_›
      · have := ih h
        exact ⟨by omega, by simp only [List.length_cons]; omega, this.2.2⟩

/-- The buffer made from a string is in canonical form. -/
theorem ofBytesFrom_wf (k : Nat) (s : Bytes) : Memory.wf (Memory.ofBytesFrom k s) := by
  induction s generalizing k with
  | nil => simp [Memory.ofBytesFrom, Memory.wf]
  | cons b s ih =>
    rw [Memory.ofBytesFrom]
    split
    · exact ih (k + 1)
    · refine ⟨List.pairwise_cons.2 ⟨fun c hc => (mem_ofBytesFrom hc).1, (ih (k + 1)).1⟩, fun c hc => ?_⟩
      rcases List.mem_cons.1 hc with rfl | hc
      · assumption
      · exact (ih (k + 1)).2 c hc

theorem ofBytes_wf (s : Bytes) : Memory.wf (Memory.ofBytes s) := ofBytesFrom_wf 0 s

/-- The buffer made from a string lists nothing at or past its length. -/
theorem ofBytes_within (s : Bytes) : Memory.within s.length (Memory.ofBytes s) := fun _ hc => by
  have := (mem_ofBytesFrom hc).2.1
  omega

/-- A write of one byte below n keeps a buffer of n bytes one. -/
theorem set_within {n : Nat} {m : Memory} {k : Nat} (b : Byte) (h : Memory.within n m) (hk : k < n) :
    Memory.within n (Memory.set m k b) := by
  unfold Memory.set
  intro c hc
  dsimp only at hc
  split at hc
  · exact h c (List.mem_of_mem_filter hc)
  · rcases mem_insert.1 hc with rfl | hc
    · exact hk
    · exact h c (List.mem_of_mem_filter hc)

/-- A write of a string that fits keeps a buffer of n bytes one. -/
theorem setBytes_within {n : Nat} {m : Memory} {k : Nat} (s : Bytes) (h : Memory.within n m)
    (hk : k + s.length ≤ n) : Memory.within n (Memory.setBytes m k s) := by
  induction s generalizing m k with
  | nil => exact h
  | cons b s ih =>
    simp only [List.length_cons] at hk
    exact ih (set_within b h (by omega)) (by omega)

/-- The canonical form decides a buffer: two that read the same are the same. -/
theorem eq_of_get_eq {m n : Memory} (hm : Memory.wf m) (hn : Memory.wf n)
    (h : ∀ k, Memory.get m k = Memory.get n k) : m = n := by
  induction m generalizing n with
  | nil =>
    cases n with
    | nil => rfl
    | cons d n =>
      have := h d.1
      simp [Memory.get] at this
      exact absurd this.symm (hn.2 d (by simp))
  | cons c m ih =>
    have hc0 : c.2 ≠ 0 := hm.2 c (by simp)
    have hm2 := List.pairwise_cons.1 hm.1
    cases n with
    | nil =>
      have := h c.1
      simp [Memory.get] at this
      exact absurd this hc0
    | cons d n =>
      have hd0 : d.2 ≠ 0 := hn.2 d (by simp)
      have hn2 := List.pairwise_cons.1 hn.1
      have e1 := h c.1
      have e2 := h d.1
      have key : c.1 = d.1 := by
        rcases Nat.lt_trichotomy c.1 d.1 with hlt | heq | hgt
        · have hz : Memory.get n c.1 = 0 := get_eq_zero_of_forall_ne fun x hx => by
            have := hn2.1 x hx; omega
          have : ¬ d.1 = c.1 := by omega
          simp [Memory.get, this, hz] at e1
          exact absurd e1 hc0
        · exact heq
        · have hz : Memory.get m d.1 = 0 := get_eq_zero_of_forall_ne fun x hx => by
            have := hm2.1 x hx; omega
          have : ¬ c.1 = d.1 := by omega
          simp [Memory.get, this, hz] at e2
          exact absurd e2.symm hd0
      have hv : c.2 = d.2 := by simpa [Memory.get, key] using e1
      have hcd : c = d := Prod.ext key hv
      subst hcd
      congr 1
      refine ih ⟨hm2.2, fun x hx => hm.2 x (by simp [hx])⟩ ⟨hn2.2, fun x hx => hn.2 x (by simp [hx])⟩ ?_
      intro k
      by_cases hk : c.1 = k
      · subst hk
        rw [get_eq_zero_of_forall_ne fun x hx => (Nat.ne_of_lt (hm2.1 x hx)).symm,
          get_eq_zero_of_forall_ne fun x hx => (Nat.ne_of_lt (hn2.1 x hx)).symm]
      · simpa [Memory.get, hk] using h k

/-- The word at k of a buffer into which v was just written there. -/
theorem getWord_setBytes (m : Memory) (k : Nat) (v : Word) :
    Memory.getWord (Memory.setBytes m k (leBytes 4 v.toNat)) k = v := by
  have h : [Memory.get (Memory.setBytes m k (leBytes 4 v.toNat)) k,
      Memory.get (Memory.setBytes m k (leBytes 4 v.toNat)) (k + 1),
      Memory.get (Memory.setBytes m k (leBytes 4 v.toNat)) (k + 2),
      Memory.get (Memory.setBytes m k (leBytes 4 v.toNat)) (k + 3)] = leBytes 4 v.toNat := by
    simp [get_setBytes, leBytes]
  rw [Memory.getWord, h, uLE_leBytes]
  apply BitVec.eq_of_toNat_eq
  have := v.isLt
  simp only [BitVec.toNat_ofNat]
  omega

end Sys2Proof.Machine
end

