-- ==== Sys2Proof/Laws/Codec.lean ====
section
/-! SUPPORT. The Header Codec and the Pseudo-Header Builder: lengths, what a success of ValidateHeader and
ParseHeader says, and what the update list of a parsed header writes. -/

namespace Sys2Proof.Machine

@[simp] theorem input_length (S : Snapshot) : S.input.length = S.inLen.toNat := by simp [Snapshot.input]

/-- A packed header has the length of R134. -/
theorem packHeader_length (h : MsgHeader) : (packHeader h).length = headerLen h.flags h.enc := by
  simp only [packHeader, headerLen, srcFieldLen, dstFieldLen, keyIdFieldLen, List.length_append, leBytes_length]
  split <;> split <;> split <;> simp

/-- The six header lengths (R134). -/
theorem headerLen_mem (f : BitVec 16) (enc : BitVec 4) : headerLen f enc ∈ [6, 8, 14, 16, 22, 24] := by
  simp only [headerLen, srcFieldLen, dstFieldLen, keyIdFieldLen]
  split <;> split <;> split <;> simp

theorem headerLen_le (f : BitVec 16) (enc : BitVec 4) : headerLen f enc ≤ 24 := by
  have := headerLen_mem f enc
  simp only [List.mem_cons, List.not_mem_nil, or_false] at this
  omega

/-- HDR_LEN has room for every header length (R44). -/
theorem hdrLen_toNat (f : BitVec 16) (enc : BitVec 4) :
    (BitVec.ofNat 5 (headerLen f enc)).toNat = headerLen f enc := by
  have := headerLen_le f enc
  rw [BitVec.toNat_ofNat]
  omega

/-- The pseudo-header is 16 bytes for the legacy variant and 22 otherwise (R180). -/
theorem pseudoHeader_length (h : MsgHeader) :
    (pseudoHeader h).length = if legacyPseudoHeaderVariant h then 16 else 22 := by
  simp only [pseudoHeader, List.length_append, leBytes_length]
  split <;> simp

@[simp] theorem ctrInit_length (h : MsgHeader) : (ctrInit h).length = 16 := by simp [ctrInit]

@[simp] theorem eaxNonce_length (h : MsgHeader) : (eaxNonce h).length = 12 := by simp [eaxNonce]

/-- The type a code names has that code, and no reserved code names one (R133). -/
theorem encTypeOf_eq_some_iff (c : BitVec 4) (e : EncType) : encTypeOf c = some e ↔ c = encCode e := by
  cases e <;> revert c <;> decide

/-- A check before the rest of a function: a success means that the check passed. -/
theorem ite_error_eq_ok {α : Type} {c : Prop} [Decidable c] (e : CmdError) (x : Except CmdError α) (y : α) :
    (if c then .error e else x) = .ok y ↔ ¬ c ∧ x = .ok y := by
  split <;> simp [*]

/-- ValidateHeader answers the type exactly when every check of R151 passes. -/
theorem validateHeader_ok_iff (S : Snapshot) (enc : EncType) :
    validateHeader S = .ok enc ↔
      versionDefined S.hdr.version = true ∧ S.hdr.encType = encCode enc ∧
      (S.ctrl.strictFlags && flagSet S.flags undefFlags) = false ∧
      S.src ≠ anyNodeId ∧ S.src ≠ S.dst ∧
      (flagSet S.flags tunneledData && flagSet S.flags msgCounterSyncReq) = false ∧
      ¬ (S.hdr.version = 1 ∧ flagSet S.flags tunneledData = true) := by
  unfold validateHeader
  rw [ite_error_eq_ok, ← encTypeOf_eq_some_iff]
  cases encTypeOf S.hdr.encType with
  | none => simp
  | some e =>
    simp only [ite_error_eq_ok, Bool.not_eq_true', Bool.not_eq_false, Bool.not_eq_true, Except.ok.injEq,
      Option.some.injEq, ne_eq]
    constructor
    · rintro ⟨h1, h3, h4, h5, h6, h7, rfl⟩
      exact ⟨h1, rfl, h3, h4, h5, h6, h7⟩
    · rintro ⟨h1, rfl, h3, h4, h5, h6, h7⟩
      exact ⟨h1, h3, h4, h5, h6, h7, rfl⟩

/-- ParseHeader answers exactly when every check of R161 passes, and then it answers the fields. -/
theorem parseHeader_ok_iff (S : Snapshot) (m : Bytes) (p : Parsed) :
    parseHeader S m = .ok p ↔
      2 ≤ m.length ∧
      versionDefined (wordVersion (BitVec.ofNat 16 (uLE (slice m 0 2)))) = true ∧
      wordEncType (BitVec.ofNat 16 (uLE (slice m 0 2))) = encCode p.enc ∧
      (S.ctrl.strictFlags && flagSet (wordFlags (BitVec.ofNat 16 (uLE (slice m 0 2)))) undefFlags) = false ∧
      p.len = headerLen (wordFlags (BitVec.ofNat 16 (uLE (slice m 0 2))))
        (wordEncType (BitVec.ofNat 16 (uLE (slice m 0 2)))) ∧
      p.len ≤ m.length ∧
      p.hdr = parseFields S m (BitVec.ofNat 16 (uLE (slice m 0 2))) := by
  unfold parseHeader
  generalize BitVec.ofNat 16 (uLE (slice m 0 2)) = w
  obtain ⟨pe, ph, pl⟩ := p
  dsimp only
  rw [ite_error_eq_ok, ite_error_eq_ok, ← encTypeOf_eq_some_iff]
  cases encTypeOf (wordEncType w) with
  | none => simp
  | some e =>
    simp only [ite_error_eq_ok, Bool.not_eq_true', Bool.not_eq_false, Bool.not_eq_true, Except.ok.injEq,
      Option.some.injEq, Parsed.mk.injEq, Nat.not_lt]
    constructor
    · rintro ⟨h1, h2, h3, h4, rfl, rfl, rfl⟩
      exact ⟨h1, h2, rfl, h3, rfl, h4, rfl⟩
    · rintro ⟨h1, h2, rfl, h3, rfl, h4, rfl⟩
      exact ⟨h1, h2, h3, h4, rfl, rfl, rfl⟩

/-- The header registers after the update list of a parsed header (R165, R290). -/
theorem applyWrites_headerWrites (s : State) (p : Parsed) :
    s.applyWrites (headerWrites p) =
      { s with
        hdr := ⟨p.hdr.ver, p.hdr.enc, p.hdr.flags &&& flagsMask, p.hdr.msgId,
          p.hdr.src.setWidth 32, p.hdr.src.extractLsb' 32 32,
          p.hdr.dst.setWidth 32, p.hdr.dst.extractLsb' 32 32, p.hdr.keyId⟩
        hdrLen := BitVec.ofNat 5 p.len } := by
  simp only [State.applyWrites, headerWrites, List.foldl_cons, List.foldl_nil, State.applyWrite]

/-- The state after ZEROIZE's update list (R305). -/
theorem applyWrites_zeroize (s : State) :
    s.applyWrites [.keysZero, .inBufZero, .inLenZero, .hdrLen 0] =
      { s with keys := zeroKeys, inBuf := [], inLen := 0, hdrLen := 0 } := rfl

end Sys2Proof.Machine
end

