-- ==== Sys2Proof/Laws/Completion.lean ====
section
/-! SUPPORT. What a completion can change (R122): every command's meaning is one completion, with the keys
cleared after ENCODE and DECODE. -/

namespace Sys2Proof.Machine

/-- What one register write of `upd` leaves alone. -/
theorem applyWrite_frame (s : State) (w : RegWrite) :
    (s.applyWrite w).params = s.params ∧ (s.applyWrite w).rst = s.rst ∧ (s.applyWrite w).phase = s.phase ∧
    (s.applyWrite w).ctrl = s.ctrl ∧ (s.applyWrite w).done = s.done ∧ (s.applyWrite w).werr = s.werr ∧
    (s.applyWrite w).buserr = s.buserr ∧ (s.applyWrite w).errCode = s.errCode ∧
    (s.applyWrite w).errDetail = s.errDetail ∧ (s.applyWrite w).outLen = s.outLen ∧
    (s.applyWrite w).outBuf = s.outBuf ∧ (s.applyWrite w).readData = s.readData ∧
    (s.applyWrite w).script = s.script := by
  cases w <;> exact ⟨rfl, rfl, rfl, rfl, rfl, rfl, rfl, rfl, rfl, rfl, rfl, rfl, rfl⟩

/-- What the writes of `upd` leave alone. -/
theorem applyWrites_frame (s : State) (upd : List RegWrite) :
    (s.applyWrites upd).params = s.params ∧ (s.applyWrites upd).rst = s.rst ∧
    (s.applyWrites upd).phase = s.phase ∧ (s.applyWrites upd).ctrl = s.ctrl ∧
    (s.applyWrites upd).done = s.done ∧ (s.applyWrites upd).werr = s.werr ∧
    (s.applyWrites upd).buserr = s.buserr ∧ (s.applyWrites upd).errCode = s.errCode ∧
    (s.applyWrites upd).errDetail = s.errDetail ∧ (s.applyWrites upd).outLen = s.outLen ∧
    (s.applyWrites upd).outBuf = s.outBuf ∧ (s.applyWrites upd).readData = s.readData ∧
    (s.applyWrites upd).script = s.script := by
  induction upd generalizing s with
  | nil => exact ⟨rfl, rfl, rfl, rfl, rfl, rfl, rfl, rfl, rfl, rfl, rfl, rfl, rfl⟩
  | cons w upd ih =>
    have h := ih (s.applyWrite w)
    have hw := applyWrite_frame s w
    simp only [State.applyWrites, List.foldl_cons] at h ⊢
    simp only [h, hw, and_self]

/-- The result of command i on the operands of s (R121). -/
def resultOf (i : Instr) (s : State) : CmdResult :=
  match i with
  | .nop => nopResult
  | .encode => encodeResult s.params.bufBytes s.operands
  | .decode => decodeResult s.params.bufBytes s.operands
  | .packHdr => packHdrResult s.operands
  | .unpackHdr => unpackHdrResult s.params.bufBytes s.operands
  | .buildPseudo => buildPseudoResult s.operands
  | .deriveCtr => deriveCtrResult s.operands
  | .deriveNonce => deriveNonceResult s.operands
  | .zeroize => zeroizeResult

/-- What a command's result can be (R121): an error, NOP's KEEP, or an output with one of four update lists: none, a
header length, a parsed header, or ZEROIZE's. -/
theorem resultOf_cases (i : Instr) (s : State) :
    (∃ e, resultOf i s = .error e) ∨ (i = .nop ∧ resultOf i s = .ok ⟨.keep, []⟩) ∨
    ∃ b upd, resultOf i s = .ok ⟨.bytes b, upd⟩ ∧
      (upd = [] ∨ (∃ n, upd = [.hdrLen n]) ∨ (∃ p, upd = headerWrites p) ∨
        upd = [.keysZero, .inBufZero, .inLenZero, .hdrLen 0]) := by
  cases i <;> simp only [resultOf, nopResult, encodeResult, decodeResult, packHdrResult, unpackHdrResult,
    buildPseudoResult, deriveCtrResult, deriveNonceResult, zeroizeResult] <;> repeat' split
  all_goals
    first
    | exact .inl ⟨_, rfl⟩
    | exact .inr (.inl ⟨trivial, trivial⟩)
    | exact .inr (.inr ⟨_, _, rfl, .inl rfl⟩)
    | exact .inr (.inr ⟨_, _, rfl, .inr (.inl ⟨_, rfl⟩)⟩)
    | exact .inr (.inr ⟨_, _, rfl, .inr (.inr (.inl ⟨_, rfl⟩))⟩)
    | exact .inr (.inr ⟨_, _, rfl, .inr (.inr (.inr rfl))⟩)

/-- Every command's meaning, said once: the completion with its result, the keys cleared after ENCODE and DECODE
(R122). -/
theorem exec_eq (i : Instr) (s : State) :
    exec i s = .next (if i = .encode ∨ i = .decode then (s.complete (resultOf i s)).clearKeys
      else s.complete (resultOf i s)) := by
  cases i <;> rfl

/-- What a completion can be (R122): a success with its output and register writes, or the error completion. -/
theorem complete_cases (s : State) (r : CmdResult) :
    (∃ out upd, r = .ok ⟨out, upd⟩ ∧ s.complete r =
        { (s.applyWrites upd).storeOutput out with errCode := 0, errDetail := 0, phase := .idle, done := true }) ∨
    (∃ e, r = .error e ∧ s.complete r =
        { s with outBuf := [], outLen := 0, errCode := errorCode e, errDetail := errorDetail e,
                 phase := .idle, done := true }) := by
  cases r with
  | ok r => exact .inl ⟨r.out, r.upd, rfl, rfl⟩
  | error e => exact .inr ⟨e, rfl, rfl⟩

/-- Every completion leaves Phase = IDLE (R122). -/
@[simp] theorem complete_phase (s : State) (r : CmdResult) : (s.complete r).phase = .idle := by
  cases r <;> rfl

/-- Every completion sets DONE (R122). -/
@[simp] theorem complete_done (s : State) (r : CmdResult) : (s.complete r).done = true := by
  cases r <;> rfl

/-- No completion changes the schedule. -/
@[simp] theorem complete_script (s : State) (r : CmdResult) : (s.complete r).script = s.script := by
  cases r with
  | ok r =>
    obtain ⟨out, upd⟩ := r
    cases out <;> exact (applyWrites_frame s upd).2.2.2.2.2.2.2.2.2.2.2.2
  | error e => rfl

/-- No completion changes the parameters. -/
@[simp] theorem complete_params (s : State) (r : CmdResult) : (s.complete r).params = s.params := by
  cases r with
  | ok r =>
    obtain ⟨out, upd⟩ := r
    cases out <;> exact (applyWrites_frame s upd).1
  | error e => rfl

end Sys2Proof.Machine
end

