-- ==== Sys2Proof/Laws/PerInstr.lean ====
section
/-! SUPPORT. The families of LAWS.json: one lemma for each constructor of Instr. -/

namespace Sys2Proof.Laws.EncodedWord

/-- The command word of i is well formed by R110 (OPC only, RSV = 0) and reads back as i. -/
def Statement (i : Instr) : Prop :=
  i.wf = true ∧ reservedField (Sys2Proof.encode i) = 0 ∧ Sys2Proof.decode (Sys2Proof.encode i) = .ok i

theorem nop : Statement .nop := ⟨rfl, rfl, rfl⟩
theorem encode : Statement .encode := ⟨rfl, rfl, rfl⟩
theorem decode : Statement .decode := ⟨rfl, rfl, rfl⟩
theorem packHdr : Statement .packHdr := ⟨rfl, rfl, rfl⟩
theorem unpackHdr : Statement .unpackHdr := ⟨rfl, rfl, rfl⟩
theorem buildPseudo : Statement .buildPseudo := ⟨rfl, rfl, rfl⟩
theorem deriveCtr : Statement .deriveCtr := ⟨rfl, rfl, rfl⟩
theorem deriveNonce : Statement .deriveNonce := ⟨rfl, rfl, rfl⟩
theorem zeroize : Statement .zeroize := ⟨rfl, rfl, rfl⟩

end Sys2Proof.Laws.EncodedWord
end

