-- ==== Sys2Proof/Laws/Step.lean ====
section
/-! SUPPORT. What one step can do, said once (R18, R92). -/

namespace Sys2Proof.Machine

/-- The engine's turn: nothing while it has no word, else the completion of the running word (R18, R113). -/
theorem engineTurn_cases (s : State) :
    (s.fetch = none ∧ engineTurn s = .next s) ∨
    (∃ w i, s.fetch = some w ∧ decode w = .ok i ∧ engineTurn s = exec i s) ∨
    (∃ w why, s.fetch = some w ∧ decode w = .error why ∧ engineTurn s = .next (s.completeIllegal why)) := by
  unfold engineTurn
  cases hf : s.fetch with
  | none => exact .inl ⟨rfl, rfl⟩
  | some w =>
    cases hd : decode w with
    | ok i => exact .inr (.inl ⟨w, i, rfl, hd, by simp [hd]⟩)
    | error why => exact .inr (.inr ⟨w, why, rfl, hd, by simp [hd]⟩)

/-- The engine's turn always answers a next state. -/
theorem engineTurn_next (s : State) : ∃ t, engineTurn s = .next t := by
  rcases engineTurn_cases s with ⟨-, h⟩ | ⟨w, i, -, -, h⟩ | ⟨w, why, -, -, h⟩
  · exact ⟨s, h⟩
  · exact ⟨_, h.trans (exec_eq i s)⟩
  · exact ⟨_, h⟩

/-- Every case of a step (R92): the engine's turn, a bus read, a bus write, or a level of rst. -/
theorem step_cases (s : State) :
    (s.script = [] ∧ step s = engineTurn s) ∨
    (∃ rest, s.script = .engine :: rest ∧ step s = engineTurn { s with script := rest }) ∨
    (∃ a n rest, s.script = .read a n :: rest ∧ step s = { s with script := rest }.busRead a n) ∨
    (∃ a n v rest, s.script = .write a n v :: rest ∧ step s = { s with script := rest }.busWrite a n v) ∨
    (∃ b rest, s.script = .rst b :: rest ∧ step s = .next ({ s with script := rest }.driveRst b)) := by
  unfold step
  cases hs : s.script with
  | nil => simp
  | cons e rest => cases e <;> simp

/-- What every command's meaning leaves: parameters, schedule and rst; and it ends IDLE with DONE (R122). -/
theorem exec_frame {i : Instr} {s t : State} (h : exec i s = .next t) :
    t.params = s.params ∧ t.script = s.script ∧ t.rst = s.rst ∧ t.phase = .idle ∧ t.done = true := by
  have hr : ∀ r, (s.complete r).rst = s.rst := by
    intro r
    rcases complete_cases s r with ⟨out, upd, -, h'⟩ | ⟨e, -, h'⟩ <;> rw [h']
    cases out <;> exact (applyWrites_frame s upd).2.1
  rw [exec_eq] at h
  injection h with h
  subst h
  split <;> simp [hr]

/-- What the engine's turn leaves; it leaves Phase IDLE unless rst holds a busy state (R18, R361). -/
theorem engineTurn_frame {s t : State} (h : engineTurn s = .next t) :
    t.params = s.params ∧ t.script = s.script ∧ t.rst = s.rst ∧
    (s.rst = false ∨ s.phase = .idle → t.phase = .idle) := by
  rcases engineTurn_cases s with ⟨hf, h'⟩ | ⟨w, i, -, -, h'⟩ | ⟨w, why, -, -, h'⟩ <;> rw [h'] at h
  · cases h
    refine ⟨rfl, rfl, rfl, ?_⟩
    rintro (hr | hp)
    · unfold State.fetch at hf
      rw [hr] at hf
      cases hp : s.phase <;> simp [hp] at hf ⊢
    · exact hp
  · have := exec_frame h
    exact ⟨this.1, this.2.1, this.2.2.1, fun _ => this.2.2.2.1⟩
  · cases h
    exact ⟨rfl, rfl, rfl, fun _ => rfl⟩

end Sys2Proof.Machine
end

