-- ==== Sys2Proof/Tests/Slice0.lean ====
section
/-! SUPPORT. Tests of the model and witnesses for the statements. Expected values come from the spec: the encodings of
R110 and R111, the published known answers of R208, R221, R226, R253 and R257, and the vectors of
spec/95_test_vectors.md, each named by its id. A theorem witness_X shows states and operands that meet the hypotheses
of Obligations.X, one conjunct for each clause. -/

namespace Sys2Proof.Tests

open Sys2Proof.Machine Sys2Proof.Claims

/-! ### Helpers -/

/-- PL of section 0 of the vectors: the bytes 00 to 0f. -/
def payload : Bytes := (List.range 16).map (BitVec.ofNat 8)

/-- H0 of section 0, with its version, type and flags given. -/
def header (ver enc : BitVec 4) (flags : BitVec 16) : Header :=
  ⟨ver, enc, flags, 1, 0x00000001, 0x18B43000, 0x00000002, 0x18B43000, 0x2001⟩

/-- DK and IK of section 0 under a KEY_TYPE. -/
def keyRecord (kt : BitVec 2) : Keys :=
  ⟨kt, 0x03020100, 0x07060504, 0x0B0A0908, 0x0F0E0D0C, 0x13121110, 0x17161514, 0x1B1A1918, 0x1F1E1D1C, 0x23222120⟩

/-- The reset state with header registers, a key record and an input loaded. -/
def loaded (h : Header) (kt : BitVec 2) (input : Bytes) : State :=
  { State.reset with
    hdr := h, keys := keyRecord kt, inBuf := Memory.ofBytes input, inLen := BitVec.ofNat 17 input.length }

/-- The same state with a claimed IN_LEN. -/
def claiming (n : Nat) (s : State) : State := { s with inLen := BitVec.ofNat 17 n }

/-- STRICT_FLAGS = 1. -/
def strict (s : State) : State := { s with ctrl := ⟨false, true⟩ }

/-- A scenario-1 machine: H0 of type None and PL. -/
def idle0 : State := loaded (header 2 0 0x300) 0 payload

/-- The machine while command i of s runs. -/
def busy (i : Instr) (s : State) : State := s.issue (encode i)

/-- The state that command i leaves. -/
def after (i : Instr) (s : State) : State :=
  match exec i s with
  | .next t => t
  | .fault _ => s
  | .refused _ => s

/-- ERR_CODE, ERR_DETAIL, HDR_LEN and the output of the one step that runs i as the next instruction. -/
def runs (i : Instr) (s : State) : Option (Nat × Nat × Nat × Bytes) :=
  match step (s.withFetchWord 32 (encode i).toNat) with
  | .next t =>
    some (t.errCode.toNat, t.errDetail.toNat, t.hdrLen.toNat, Memory.toBytes t.outBuf t.outLen.toNat)
  | .fault _ => none
  | .refused _ => none

/-- The message of vector X1: the 24 header bytes, the ciphertext and the tag. -/
def messageX1 : Bytes :=
  beBytes 24 0x302301000000010000000030b418020000000030b4180120 ++ beBytes 16 0xce722588c721aa34bada3b2dd0691378
    ++ beBytes 16 0xcb70981693b3b5be81e21b5e1fd59e68

/-- The message of vector C1. -/
def messageC1 : Bytes :=
  beBytes 24 0x102301000000010000000030b418020000000030b4180120 ++ beBytes 16 0x1649037391d7d002bbca8b4353d85d99
    ++ beBytes 20 0x9f10d56d567a0afc4333e5ec92f90d3ef7bce691

/-- The message of vector X2. -/
def messageX2 : Bytes :=
  beBytes 24 0x202301000000010000000030b418020000000030b4180120 ++ beBytes 16 0xce722588c721aa34bada3b2dd0691378
    ++ beBytes 8 0xe303047a464708a4

/-- The message of section 1.1: type None. -/
def messageNone : Bytes := beBytes 22 0x002301000000010000000030b418020000000030b418 ++ payload

/-- m with the byte at k changed by the mask. -/
def flip (m : Bytes) (k : Nat) (mask : Byte) : Bytes := m.set k (m.getD k 0 ^^^ mask)

/-- A receiving machine: context node ids SRC and DST, a key record and a message. -/
def receiver (kt : BitVec 2) (m : Bytes) : State :=
  loaded { header 0 0 0 with msgId := 0, keyId := 0 } kt m

/-! ### Well-formedness: each check refuses an ill-formed term (R8, R110) -/

theorem test_wf_default : Config.params.wf = true := by decide
theorem test_wf_base_misaligned : (⟨0x20000, 2048⟩ : Params).wf = false := by decide
theorem test_wf_bufBytes_not_multiple_of_16 : (⟨0, 2056⟩ : Params).wf = false := by decide
theorem test_wf_bufBytes_too_small : (⟨0, 48⟩ : Params).wf = false := by decide
theorem test_wf_bufBytes_too_large : (⟨0, 65552⟩ : Params).wf = false := by decide
theorem test_wf_command : Instr.zeroize.wf = true := by decide

/-! ### Decoding: the nine words of R111 written out bit by bit, and illegal words (R113) -/

theorem test_decode_nop : decode 0b00000000000000000000000000000000 = .ok .nop := by decide
theorem test_decode_encode : decode 0b00000000000000000000000000000001 = .ok .encode := by decide
theorem test_decode_decode : decode 0b00000000000000000000000000000010 = .ok .decode := by decide
theorem test_decode_packHdr : decode 0b00000000000000000000000000010000 = .ok .packHdr := by decide
theorem test_decode_unpackHdr : decode 0b00000000000000000000000000010001 = .ok .unpackHdr := by decide
theorem test_decode_buildPseudo : decode 0b00000000000000000000000000010010 = .ok .buildPseudo := by decide
theorem test_decode_deriveCtr : decode 0b00000000000000000000000000010011 = .ok .deriveCtr := by decide
theorem test_decode_deriveNonce : decode 0b00000000000000000000000000010100 = .ok .deriveNonce := by decide
theorem test_decode_zeroize : decode 0b00000000000000000000000000100000 = .ok .zeroize := by decide
theorem test_decode_unknown_opcode : decode 0x00000003 = .error .unknownOpcode := by decide
theorem test_decode_opcode_test_first : decode 0xFFFFFFFF = .error .unknownOpcode := by decide
theorem test_decode_reserved_bit_8 : decode 0x00000101 = .error .reservedBits := by decide
theorem test_decode_reserved_bit_31 : decode 0x80000000 = .error .reservedBits := by decide
theorem test_table_word : decodeTableWord 32 0x14 = some .deriveNonce := by decide
theorem test_table_word_short : decodeTableWord 8 0x101 = some .encode := by decide

/-! ### Reset and memory -/

theorem test_reset_memory : Memory.wf State.reset.inBuf ∧ Memory.wf State.reset.outBuf := by decide
theorem test_write_of_zero_removes : Memory.set [(3, 0x55)] 3 0 = [] := by decide
theorem test_write_in_order : Memory.set [(3, 0x55)] 1 0x66 = [(1, 0x66), (3, 0x55)] := by decide
theorem test_header_word : headerWord 15 15 0x0F0F = 0xFFFF := by decide
theorem test_unpack_word :
    wordVersion 0xA5C3 = 0xA ∧ wordEncType 0xA5C3 = 0xC ∧ wordFlags 0xA5C3 = 0x0503 := by decide

/-! ### Published known answers (R208, R221, R226, R253, R257) -/

/-- The counter wraps at 2^128 (section 2.5). -/
theorem test_ctr_wrap :
    aes128Ctr payload (List.replicate 16 0xFF) (zeros 32)
      = beBytes 16 0x3c441f32ce07822364d7a2990e50bb13 ++ beBytes 16 0xc6a13b37878f5b826f4f8162a1c8d879 := by
  decide +kernel

theorem test_sha1_abc : sha1 [0x61, 0x62, 0x63] = beBytes 20 0xa9993e364706816aba3e25717850c26c9cd0d89d := by
  decide +kernel

theorem test_hmac_hi_there :
    hmacSha1 (List.replicate 20 0x0B) [0x48, 0x69, 0x20, 0x54, 0x68, 0x65, 0x72, 0x65]
      = beBytes 20 0xb617318655057264e28bc0b6fb378c8ef146be00 := by decide +kernel

theorem test_cmac_empty :
    cmac (beBytes 16 0x2b7e151628aed2a6abf7158809cf4f3c) [] = beBytes 16 0xbb1d6929e95937287fa37d129b756746 := by
  decide +kernel

theorem test_eax :
    eaxEnc (beBytes 16 0x01F74AD64077F2E704C0F60ADA3DD523) (beBytes 16 0x70C3DB4F0D26368400A10ED05D2BFF5E)
        (beBytes 8 0x234A3463C1264AC6) (beBytes 5 0x1A47CB4933) 16
      = (beBytes 5 0xD851D5BAE0, beBytes 16 0x3A59F238A23E39199DC9266626C40F80) := by decide +kernel

/-! ### One step for each command (spec/95_test_vectors.md) -/

/-- NOP keeps the output of an earlier command (R281). -/
theorem test_nop : runs .nop { idle0 with outBuf := [(0, 7)], outLen := 1, errCode := 3, errDetail := 0x20 }
    = some (0, 0, 0, [7]) := by decide +kernel

/-- H6. -/
theorem test_packHdr : runs .packHdr (loaded (header 2 3 0x300) 0 [])
    = some (0, 0, 24, beBytes 24 0x302301000000010000000030b418020000000030b4180120) := by decide +kernel

/-- H18: the 0x06 check comes before the 0x07 check. -/
theorem test_packHdr_order : runs .packHdr (loaded (header 1 0 0xF00) 0 []) = some (1, 6, 0, []) := by
  decide +kernel

/-- U3: context node ids kept, key id from the wire, the region not looked at. -/
theorem test_unpackHdr :
    (after .unpackHdr (busy .unpackHdr (loaded ⟨0, 0, 0, 0, 0x1111, 0, 0x2222, 0, 0⟩ 0
      [0x20, 0x20, 0x07, 0, 0, 0, 0xcd, 0xab, 0x99]))).hdr = ⟨2, 2, 0, 7, 0x1111, 0, 0x2222, 0, 0xABCD⟩ := by
  decide +kernel

/-- U7: 23 bytes of a 24-byte header. -/
theorem test_unpackHdr_short : runs .unpackHdr (receiver 0 (messageX1.take 23)) = some (2, 0x11, 0, []) := by
  decide +kernel

/-- B5: the masked word 0x240F. -/
theorem test_buildPseudo : runs .buildPseudo (loaded (header 2 0 0xF0F) 0 [])
    = some (0, 0, 0, beBytes 22 0x010000000030b418020000000030b4180f2401000000) := by decide +kernel

/-- B2: the legacy variant. -/
theorem test_buildPseudo_legacy : runs .buildPseudo (loaded (header 1 1 0x300) 0 [])
    = some (0, 0, 0, beBytes 16 0x010000000030b418020000000030b418) := by decide +kernel

/-- N1. -/
theorem test_deriveCtr : runs .deriveCtr idle0 = some (0, 0, 0, beBytes 16 0x18b43000000000010000000100000000) := by
  decide +kernel

/-- N1. -/
theorem test_deriveNonce : runs .deriveNonce idle0 = some (0, 0, 0, beBytes 12 0x18b430000000000100000001) := by
  decide +kernel

/-- C1. -/
theorem test_encode_ctrSha1 : runs .encode (loaded (header 2 1 0x300) 1 payload) = some (0, 0, 24, messageC1) := by
  decide +kernel

/-- X1. -/
theorem test_encode_eax128 : runs .encode (loaded (header 2 3 0x300) 2 payload) = some (0, 0, 24, messageX1) := by
  decide +kernel

/-- X9. -/
theorem test_decode_eax64 : runs .decode (receiver 2 messageX2) = some (0, 0, 24, payload) := by decide +kernel

/-- X10: the last tag byte 0x68 changed to 0x69. -/
theorem test_decode_bad_tag : runs .decode (receiver 2 (flip messageX1 55 1)) = some (4, 0x21, 0, []) := by
  decide +kernel

/-- ZEROIZE erases the keys and both buffers (R305). -/
theorem test_zeroize :
    after .zeroize (busy .zeroize { idle0 with outBuf := [(0, 7)], outLen := 1, hdrLen := 22, ctrl := ⟨true, false⟩ })
      = { State.reset with hdr := idle0.hdr, done := true, ctrl := ⟨true, false⟩ } := by decide +kernel

/-! ### The bus -/

/-- An 8-bit access sets BUSERR (bit 4 of STATUS) and reads 0 (R87). -/
theorem test_bus_byte_read :
    ((idle0.memRead 0x000 1).readData, (idle0.memRead 0x000 1).statusWord) = (0, 0x10) := by decide +kernel

/-- A write while BUSY sets WERR (bit 3 of STATUS) beside BUSY (R93). -/
theorem test_bus_busy_write : ((busy .nop idle0).memWrite 0x034 4 9).statusWord = 0x09 := by decide +kernel

/-- HDR_FLAGS keeps the bits of 0x0F0F (R47, H9). -/
theorem test_bus_flags_mask : (idle0.memWrite 0x030 4 0xF3F0).memReadValue 0x030 4 = 0x0300 := by decide +kernel

/-- The lines of a script become bus writes (R141). -/
theorem test_script_loadbuf :
    lineEvents 0x40000 (.loadbuf [1, 2, 3, 4, 5])
      = [.write 0x50000 4 0x04030201, .write 0x50004 4 0x00000005, .write 0x4001C 4 5] := by decide

/-! ### Witnesses -/

theorem witness_DecodeMapsEveryWord :
    ((0x03 : Word).toNat % 256 ∉ opcodes ∧ (0xFFFFFFFF : Word).toNat % 256 ∉ opcodes) ∧
    ((0x100 : Word).toNat % 256 ∈ opcodes ∧ (0x100 : Word).toNat / 256 ≠ 0) ∧
    ((0x20 : Word).toNat % 256 ∈ opcodes ∧ (0x20 : Word).toNat / 256 = 0) := by decide

theorem witness_DecodeEncodeRoundTrip : decode 0x20 = .ok .zeroize := by decide

theorem witness_StepRunsDecodedCommand :
    (busy .nop idle0).rst = false ∧ (busy .nop idle0).phase = .busy (idle0.capture 0) ∧
    decode (idle0.capture 0).cmd = .ok .nop ∧ engineNext (busy .nop idle0) (busy .nop idle0) ∧
    engineNext { busy .nop idle0 with script := [.engine] } (busy .nop idle0) :=
  ⟨rfl, rfl, rfl, .inl ⟨rfl, rfl⟩, .inr ⟨[], rfl, rfl⟩⟩

theorem witness_IllegalWordCompletesWithError :
    (idle0.issue 3).rst = false ∧ (idle0.issue 3).phase = .busy (idle0.capture 3) ∧
    (idle0.capture 3).cmd.toNat % 256 ∉ opcodes ∧ (idle0.issue 0x101).phase = .busy (idle0.capture 0x101) ∧
    (idle0.capture 0x101).cmd.toNat % 256 ∈ opcodes ∧ (idle0.capture 0x101).cmd.toNat / 256 ≠ 0 :=
  ⟨rfl, rfl, by decide, rfl, by decide, by decide⟩

/-- The window's first and last word, the addresses just outside it, and an idle engine turn. -/
theorem witness_StepAppliesScheduledEvent :
    let at_base (es : List Event) : State := { State.resetWith ⟨0x40000, 2048⟩ with script := es }
    (at_base [.read (0x40000 + 0) 4]).script = .read ((at_base []).params.base + 0) 4 :: [] ∧
    (at_base [.write (0x40000 + 0x3FFFC) 4 1]).script = .write ((at_base []).params.base + 0x3FFFC) 4 1 :: [] ∧
    (at_base [.read 0x3FFFF 1]).script = .read 0x3FFFF 1 :: [] ∧ 0x3FFFF < (at_base []).params.base ∧
    (at_base [.write 0x80000 4 1]).script = .write 0x80000 4 1 :: [] ∧
    (at_base []).params.base + 0x40000 ≤ 0x80000 ∧
    (at_base [.rst true]).script = .rst true :: [] ∧ (at_base [.engine]).script = .engine :: [] ∧
    (at_base []).script = [] ∧ (at_base []).phase = .idle := by decide

theorem witness_EveryStepKeepsInv :
    (busy .encode idle0).Inv ∧ step (busy .encode idle0) = .next (after .encode (busy .encode idle0)) := by
  refine ⟨?_, rfl⟩
  constructor
  case snapshotCurrent =>
    intro S h
    cases h
    exact ⟨rfl, rfl, rfl, rfl⟩
  case errorPair => exact .inl ⟨rfl, rfl⟩
  all_goals decide

/-- The default and the two ends of the legal range, for ResetLeavesListedValues and InvHoldsAtReset. -/
theorem witness_ResetLeavesListedValues :
    Config.params.wf = true ∧ (⟨0, 64⟩ : Params).wf = true ∧ (⟨0xFFFC0000, 65536⟩ : Params).wf = true := by decide

theorem witness_InWindowScheduleNeverStops :
    ({ idle0 with script := [.read 0 4, .write 0x3FFFF 1 0, .rst true, .engine] } : State).scriptInWindow = true := by
  decide

theorem witness_EveryIssuedCommandEnds :
    ({ busy .decode idle0 with script := [.read 0x10 4, .write 0x8 4 2] } : State).scriptInWindow = true ∧
    (({ busy .decode idle0 with script := [.read 0x10 4, .write 0x8 4 2] } : State).rst = true →
      ({ busy .decode idle0 with script := [.read 0x10 4, .write 0x8 4 2] } : State).phase = .idle) :=
  ⟨by decide, fun h => absurd h (by decide)⟩

/-- A running command whose state a CTRL write, a STATUS write, an ignored write, a soft reset and rst do change. -/
theorem witness_BusyStateChangesOnlyControl :
    (busy .nop idle0).rst = false ∧ (busy .nop idle0).phase = .busy (idle0.capture 0) ∧
    (busy .nop idle0).memWrite 0x08 4 1 ≠ busy .nop idle0 ∧ (busy .nop idle0).memWrite 0x1C 4 2 ≠ busy .nop idle0 ∧
    (busy .nop idle0).memWrite 0x10 4 2 = busy .nop idle0 ∧ (0x2 : Word).getLsbD 1 = true ∧
    ((busy .nop idle0).memWrite 0x08 4 2).phase = .idle ∧ ((busy .nop idle0).driveRst true).rst = true :=
  ⟨rfl, rfl, by decide, by decide, by decide, by decide, rfl, rfl⟩

/-- Two states of one snapshot that differ in BASE, STATUS, HDR_LEN and the live registers. -/
theorem witness_ResultDependsOnSnapshotOnly :
    let s' : State :=
      { State.resetWith ⟨0x40000, 2048⟩ with phase := .busy (idle0.capture 2), werr := true, hdrLen := 8 }
    (busy .decode idle0).phase = .busy (idle0.capture 2) ∧ s'.phase = .busy (idle0.capture 2) ∧
    (busy .decode idle0).params.bufBytes = s'.params.bufBytes ∧
    exec .decode (busy .decode idle0) = .next (after .decode (busy .decode idle0)) ∧
    exec .decode s' = .next (after .decode s') := ⟨rfl, rfl, rfl, rfl, rfl⟩

/-- An idle state with rst released: the hypotheses of IdleMeaningIsIssueThenRun, CmdWriteTakesSnapshot and
KeyRegistersPackAndHide, with the ends of CmdWriteTakesSnapshot's read clause. -/
theorem witness_CmdWriteTakesSnapshot :
    idle0.phase = .idle ∧ idle0.rst = false ∧ 0x00C ∉ [0x000, 0x004, 0x008, 0x010] ∧
    0x014 ∉ [0x000, 0x004, 0x008, 0x010] := by decide

/-- The three kinds of a CTRL write, for CtrlWriteResetsOrSetsEnables and IrqFollowsDoneAndEnable. -/
theorem witness_CtrlWriteResetsOrSetsEnables :
    idle0.rst = false ∧ (0x2 : Word).getLsbD 1 = true ∧ (0x5 : Word).getLsbD 1 = false := by decide

theorem witness_RstInputHoldsReset : (State.reset.driveRst true).rst = true := by decide

/-- A wrong size, a wrong alignment, and both. -/
theorem witness_IllegalAccessOnlySetsBuserr :
    idle0.rst = false ∧ ¬ (1 = 4 ∧ 0x10 % 4 = 0) ∧ ¬ (4 = 4 ∧ 0x12 % 4 = 0) ∧ ¬ (8 = 4 ∧ 0x13 % 4 = 0) := by decide

theorem witness_BusyReadsReturnZero :
    (busy .nop idle0).rst = false ∧ (busy .nop idle0).isBusy = true ∧ 0x00C % 4 = 0 ∧
    0x00C ∉ [0x000, 0x004, 0x008, 0x010] ∧ (busy .nop idle0).params.wf = true := by decide

/-- A register, the last word of IN_BUF and a reserved offset. -/
theorem witness_BusyWritesOnlySetWerr :
    (busy .nop idle0).rst = false ∧ (busy .nop idle0).isBusy = true ∧
    ∀ off ∈ [0x000, 0x00C, 0x107FC, 0x3FFFC], off % 4 = 0 ∧ off ≠ 0x008 ∧ off ≠ 0x010 := by decide

/-- The first and the last word of a buffer, for InBufWordWriteReadsBack and BufferWordReadIsLittleEndian. -/
theorem witness_InBufWordWriteReadsBack :
    idle0.rst = false ∧ idle0.phase = .idle ∧ idle0.params.wf = true ∧
    (0 % 4 = 0 ∧ 0 + 4 ≤ idle0.params.bufBytes) ∧ (2044 % 4 = 0 ∧ 2044 + 4 ≤ idle0.params.bufBytes) := by decide

/-- Each range of the write clause and of the read clause at its ends. -/
theorem witness_ReadOnlyAndReservedIgnoreWrites :
    idle0.rst = false ∧ idle0.phase = .idle ∧
    (0x000 ∈ [0x000, 0x004, 0x014, 0x018, 0x020, 0x024] ∧ 0x024 ∈ [0x000, 0x004, 0x014, 0x018, 0x020, 0x024]) ∧
    (0x074 ≤ 0x074 ∧ 0x074 < 0x10000) ∧ (0x074 ≤ 0xFFFC ∧ 0xFFFC < 0x10000) ∧
    0x10000 + idle0.params.bufBytes ≤ 0x10800 ∧ (0x10000 + idle0.params.bufBytes ≤ 0x1FFFC ∧ 0x1FFFC < 0x20000) ∧
    0x20000 + idle0.params.bufBytes ≤ 0x20800 ∧ 0x20000 + idle0.params.bufBytes ≤ 0x3FFFC := by decide

/-- The first and the last register of the table. -/
theorem witness_RegisterWriteReadsBackMasked :
    idle0.rst = false ∧ idle0.phase = .idle ∧ (0x01C, 0x1FFFF) ∈ rwRegisters ∧ (0x04C, 0x3) ∈ rwRegisters := by
  decide

theorem witness_KeysNeverReachTheBus : (keyRecord 0).keyType = noKeys.keyType ∧ keyRecord 0 ≠ noKeys := by decide

theorem witness_LegalReadHasNoSideEffect : 0 % 4 = 0 ∧ 0x3FFFC % 4 = 0 := by decide

theorem witness_IrqFollowsDoneAndEnable :
    let s : State := { idle0 with done := true, ctrl := ⟨true, false⟩ }
    s.rst = false ∧ (0x2 : Word).getLsbD 1 = true ∧ s.phase = .idle ∧ (0x0 : Word).getLsbD 0 = false ∧
    ((0x1 : Word).getLsbD 0 = true ∧ (0x1 : Word).getLsbD 1 = false ∧ s.done = true) ∧ s.irq = true := by decide

/-- An error completion leaves an idle state whose result registers are not 0, and legal parameters. -/
theorem witness_IdleReadsReturnRegisters :
    let s : State := (loaded (header 2 0 0x300) 0 payload).completeIllegal .unknownOpcode
    s.rst = false ∧ s.phase = .idle ∧ s.params.wf = true ∧ s.errCode = 5 ∧ s.errDetail = 0x30 ∧
    (0x038, 0xFFFFFFFF) ∈ rwRegisters ∧ rwField s 0x038 = 1 ∧ rwField s 0x03C = 0x18B43000 := by decide

/-- A running illegal word with a key record loaded, for OnlyEncodeAndDecodeUseKeys. -/
theorem witness_OnlyEncodeAndDecodeUseKeys :
    let s := idle0.issue 0xFF
    s.rst = false ∧ s.phase = .busy (idle0.capture 0xFF) ∧ decode (idle0.capture 0xFF).cmd = .error .unknownOpcode ∧
    engineTurn s = .next (s.completeIllegal .unknownOpcode) ∧ s.keys ≠ noKeys :=
  ⟨rfl, rfl, rfl, rfl, by decide⟩

/-- A running command, for the statements whose only hypothesis is a snapshot, and for OnlyEncodeAndDecodeUseKeys. -/
theorem witness_busy : ∀ i : Instr,
    (busy i idle0).phase = .busy (idle0.capture (encode i)) ∧ (busy i idle0).rst = false ∧
    exec i (busy i idle0) = .next (after i (busy i idle0)) := by
  intro i
  cases i <;> exact ⟨rfl, rfl, rfl⟩

/-- A valid header of each type, for the success clause of PackHdrValidatesAndPacks. -/
theorem witness_PackHdrValidatesAndPacks :
    ∀ enc ∈ [(0 : BitVec 4), 1, 2, 3],
      firstFailing (headerChecks ((loaded (header 2 enc 0x300) 0 []).capture 0x10)) = 0 := by decide +kernel

/-- H11, H13, H21, H14, H15, H16, H17: a header that fails each check first, for its failure clause. -/
theorem witness_PackHdrValidatesAndPacks_failure :
    let fails (s : State) : Nat := firstFailing (headerChecks (s.capture 0x10))
    fails (loaded (header 0 0 0x300) 0 []) = 1 ∧ fails (loaded (header 2 4 0x300) 0 []) = 2 ∧
    fails (strict (loaded (header 2 0 0x301) 0 [])) = 3 ∧
    fails (loaded { header 2 0 0x300 with srcLo := 0xFFFFFFFF, srcHi := 0xFFFFFFFF } 0 []) = 4 ∧
    fails (loaded { header 2 0 0 with dstLo := 1 } 0 []) = 5 ∧ fails (loaded (header 2 0 0xF00) 0 []) = 6 ∧
    fails (loaded (header 1 0 0x700) 0 []) = 7 := by decide +kernel

/-- A message of each type, and U2, the shortest header, for the success clause of UnpackHdrParsesAndLoads. -/
theorem witness_UnpackHdrParsesAndLoads :
    ∀ m ∈ [messageNone, messageC1, messageX2, messageX1, [0x00, 0x20, 0x07, 0x00, 0x00, 0x00]],
      firstFailing (parseChecks 2048 ((receiver 0 m).capture 0x11)) = 0 := by decide +kernel

/-- U8, U5, U9, U10, U11, U7: a message that fails each check first, for its failure clause. -/
theorem witness_UnpackHdrParsesAndLoads_failure :
    let fails (s : State) : Nat := firstFailing (parseChecks 2048 (s.capture 0x11))
    fails (claiming 2049 (receiver 0 messageX1)) = 0x13 ∧ fails (receiver 0 [0x00]) = 0x10 ∧
    fails (receiver 0 (beBytes 8 0x0003010000000000)) = 0x01 ∧
    fails (receiver 0 (beBytes 8 0x5020010000000000)) = 0x02 ∧
    fails (strict (receiver 0 (beBytes 8 0x0120010000000000))) = 0x03 ∧
    fails (receiver 0 (messageX1.take 23)) = 0x11 := by decide +kernel

/-- Each type with its key variant, PL and the longest payload that fits (E19 to E24), for EncodeChecksAndSeals. -/
theorem witness_EncodeChecksAndSeals :
    ∀ c ∈ [((0 : BitVec 4), (0 : BitVec 2), 2026), (1, 1, 2004), (2, 2, 2016), (3, 2, 2008)],
      firstFailing (encodeChecks 2048 ((loaded (header 2 c.1 0x300) c.2.1 payload).capture 1)) = 0 ∧
      firstFailing (encodeChecks 2048 ((claiming c.2.2 (loaded (header 2 c.1 0x300) c.2.1 [])).capture 1)) = 0 := by
  decide +kernel

/-- E1, E9, E15, E18: a header, the key variant, the input and the output capacity, for its failure clause. -/
theorem witness_EncodeChecksAndSeals_failure :
    let fails (s : State) : Nat := firstFailing (encodeChecks 2048 (s.capture 1))
    fails (loaded (header 0 3 0x300) 0 payload) = 0x01 ∧ fails (loaded (header 2 0 0x300) 2 payload) = 0x08 ∧
    fails (claiming 2049 (loaded (header 2 0 0x300) 0 payload)) = 0x41 ∧
    fails (claiming 2027 (loaded (header 2 0 0x300) 0 payload)) = 0x40 := by decide +kernel

/-- The message of section 1.1, C5, X9 and X8, for DecodeChecksAndOpens. -/
theorem witness_DecodeChecksAndOpens :
    ∀ c ∈ [((0 : BitVec 2), messageNone), (1, messageC1), (2, messageX2), (2, messageX1)],
      let S := (receiver c.1 c.2).capture 2
      firstFailing (decodeChecks 2048 S) = 0 ∧
      payloadOf S (wireHdr S (inputOf S)) ((inputOf S).drop (wireHdr S (inputOf S)).len) = .ok payload := by
  decide +kernel

/-- C13, C12, U5, C7, X10: a failing check of each kind and the two tag errors, for its failure clauses. -/
theorem witness_DecodeChecksAndOpens_failure :
    let fails (s : State) : Nat := firstFailing (decodeChecks 2048 (s.capture 2))
    let opens (s : State) : Except Nat Bytes :=
      payloadOf (s.capture 2) (wireHdr (s.capture 2) (inputOf (s.capture 2)))
        ((inputOf (s.capture 2)).drop (wireHdr (s.capture 2) (inputOf (s.capture 2))).len)
    fails (receiver 2 messageC1) = 0x08 ∧ fails (receiver 1 (messageC1.take 43)) = 0x12 ∧
    fails (receiver 1 [0x00]) = 0x10 ∧
    (fails (receiver 1 (flip messageC1 59 1)) = 0 ∧ opens (receiver 1 (flip messageC1 59 1)) = .error 0x20) ∧
    (fails (receiver 2 (flip messageX1 55 1)) = 0 ∧ opens (receiver 2 (flip messageX1 55 1)) = .error 0x21) := by
  decide +kernel

/-- The frame clause of ZeroizeClearsSecrets. -/
theorem witness_ZeroizeClearsSecrets :
    Instr.nop ≠ .zeroize ∧ exec .nop (busy .nop idle0) = .next (after .nop (busy .nop idle0)) := ⟨by decide, rfl⟩

theorem witness_ErrorsArePrecise :
    let s := busy .packHdr (loaded (header 0 0 0x300) 0 [])
    exec .packHdr s = .next (after .packHdr s) ∧ (after .packHdr s).errCode ≠ 0 := ⟨rfl, by decide +kernel⟩

/-- A buffer that differs only past IN_LEN; with IN_LEN > BUF_BYTES the hypothesis asks nothing. -/
theorem witness_BytesPastInLenAreIgnored :
    (busy .decode idle0).phase = .busy (idle0.capture 2) ∧
    ((idle0.capture 2).inLen.toNat ≤ (busy .decode idle0).params.bufBytes → ∀ k, k < (idle0.capture 2).inLen.toNat →
      Memory.get (Memory.set idle0.inBuf 16 0x77) k = Memory.get (idle0.capture 2).inBuf k) := by
  refine ⟨rfl, fun _ => ?_⟩
  have h : (idle0.capture 2).inLen.toNat = 16 := by decide
  rw [h]
  decide

/-- Two snapshots of one source node id and message id. -/
theorem witness_DerivationsReadSourceAndIdOnly :
    let S := idle0.capture 0x13
    let S' := (loaded { header 7 9 0x0F0F with dstLo := 5, keyId := 0 } 2 []).capture 0x14
    (busy .deriveCtr idle0).phase = .busy S ∧ S'.hdr.srcLo = S.hdr.srcLo ∧ S'.hdr.srcHi = S.hdr.srcHi ∧
    S'.hdr.msgId = S.hdr.msgId := ⟨rfl, rfl, rfl, rfl⟩

/-- E13 and C13. -/
theorem witness_WrongKeyVariantIsRefused :
    let S := (loaded (header 2 1 0x300) 2 payload).capture 1
    let R := (receiver 2 messageC1).capture 2
    (firstFailing (headerChecks S) = 0 ∧ S.keys.keyType.toNat ≠ keyTypeOf (regHdr S).enc) ∧
    firstFailing (parseChecks 2048 R) = 0 ∧ R.keys.keyType.toNat ≠ keyTypeOf (wireHdr R (inputOf R)).enc := by
  decide +kernel

/-- E4 to E8. -/
theorem witness_InvariantsAreRejected :
    let snap (h : Header) : Snapshot := (loaded h 0 payload).capture 1
    let passes (n : Nat) (S : Snapshot) : Prop := firstFailing ((headerChecks S).take n) = 0
    let any := snap { header 2 0 0x300 with srcLo := 0xFFFFFFFF, srcHi := 0xFFFFFFFF }
    let same := snap { header 2 0 0x300 with dstLo := 1 }
    (passes 3 any ∧ (regHdr any).src = 2 ^ 64 - 1) ∧ (passes 4 same ∧ (regHdr same).src = (regHdr same).dst) ∧
    (passes 5 (snap (header 2 0 0xF00)) ∧ (regHdr (snap (header 2 0 0xF00))).tunneled = true ∧
      (regHdr (snap (header 2 0 0xF00))).syncReq = true) ∧
    (passes 6 (snap (header 1 0 0x700)) ∧ (regHdr (snap (header 1 0 0x700))).ver = 1 ∧
      (regHdr (snap (header 1 0 0x700))).tunneled = true) := by decide +kernel

/-- The three parsers: strict on a header with all three optional fields, tolerant and strict on undefined flag bits. -/
theorem witness_ParseInvertsPack :
    let S := (loaded (header 2 3 0x300) 2 []).capture 1
    let U := (loaded (header 2 0 0x00F) 0 []).capture 1
    let strictS := (strict idle0).capture 2
    (validateHeader S = .ok .aes128Eax128 ∧ strictS.ctrl.strictFlags = true ∧ flagSet S.flags undefFlags = false) ∧
    (validateHeader U = .ok .none ∧ (idle0.capture 2).ctrl.strictFlags = false) ∧
    (strictS.ctrl.strictFlags = true ∧ flagSet U.flags undefFlags = true) := by
  decide +kernel

/-- The machine that receives what s encodes: same key record, and the context node ids of its header registers. -/
def receiving (s : State) : State :=
  { s with inBuf := (after .encode (busy .encode s)).outBuf, inLen := (after .encode (busy .encode s)).outLen }

/-- C1 with both node ids on the wire, and X7 with neither. -/
theorem witness_DecodeUndoesEncode :
    ∀ s ∈ [loaded (header 2 1 0x300) 1 payload, loaded (header 2 3 0) 2 payload],
      let S := s.capture 1
      let t := after .encode (busy .encode s)
      let S' := (receiving s).capture 2
      (busy .encode s).params.wf = true ∧ (busy .encode s).phase = .busy S ∧
      firstFailing (encodeChecks 2048 S) = 0 ∧ exec .encode (busy .encode s) = .next t ∧
      (busy .decode (receiving s)).params = s.params ∧ (busy .decode (receiving s)).phase = .busy S' ∧
      S'.inLen = t.outLen ∧ (∀ k, k < t.outLen.toNat → Memory.get S'.inBuf k = Memory.get t.outBuf k) ∧
      S'.keys = S.keys ∧ S'.ctrl.strictFlags = S.ctrl.strictFlags ∧
      ((regHdr S).hasSrc = false → S'.src = S.src) ∧ ((regHdr S).hasDst = false → S'.dst = S.dst) := by
  intro s hs
  have checks : ∀ u ∈ [loaded (header 2 1 0x300) 1 payload, loaded (header 2 3 0) 2 payload],
      u.params.wf = true ∧ firstFailing (encodeChecks 2048 (u.capture 1)) = 0 := by decide +kernel
  exact ⟨(checks s hs).1, rfl, (checks s hs).2, rfl, rfl, rfl, rfl, fun _ _ => rfl, rfl, rfl, fun _ => rfl, fun _ => rfl⟩

/-- The first and the last block number. -/
theorem witness_CtrSha1CounterStaysInLowWord : 0 < 2 ^ 32 ∧ 4294967295 < 2 ^ 32 := by decide

theorem witness_ConstantTimeCompareIsEquality : payload.length = (zeros 16).length ∧ payload ≠ zeros 16 := by decide

/-- A tag of the right length that is not the tag, at the longest length. -/
theorem witness_EaxAcceptsOnlyItsTag :
    16 ≤ 16 ∧ (zeros 16).length = 16 ∧ zeros 16 ≠ (eaxEnc payload [] [] [] 16).2 := by decide +kernel

/-- C1, X2 and X1 open; the tag with its last byte changed is another tag of the same length. -/
theorem witness_ChangedTagAlwaysFails :
    ∀ c ∈ [(EncType.aes128CtrSha1, (1 : BitVec 2), messageC1), (.aes128Eax64, 2, messageX2),
        (.aes128Eax128, 2, messageX1)],
      let S := (receiver c.2.1 c.2.2).capture 2
      let region := c.2.2.drop 24
      let tag := region.drop 16
      let tag' := flip tag (tag.length - 1) 1
      let h : MsgHeader :=
        ⟨2, encCode c.1, 0x300, 1, 0x18B4300000000001, 0x18B4300000000002, 0x2001⟩
      c.1 ≠ .none ∧ tag.length = tagLen c.1 ∧ tag'.length = tagLen c.1 ∧ tag' ≠ tag ∧
      openRegion c.1 h S (region.take 16 ++ tag) = .ok payload := by decide +kernel

end Sys2Proof.Tests
end

