-- ==== Sys2Proof/Proofs/Scope.lean ====
section
/-! SUPPORT. The engine's turn in a step (00_scope.md): which word it runs, and as which command. -/

namespace Sys2Proof.Machine

open Sys2Proof.Claims

/-- Whichever form the schedule gives the engine's turn in, the step is that turn. -/
theorem step_eq_engineTurn {s a : State} (h : engineNext s a) : step s = engineTurn a := by
  rcases h with ⟨hs, rfl⟩ | ⟨rest, hs, rfl⟩
  · simp only [step, hs]
  · simp only [step, hs]

/-- Losing the engine's turn from the schedule leaves the word the engine has (R18). -/
theorem fetch_eq_of_engineNext {s a : State} (h : engineNext s a) : a.fetch = s.fetch := by
  rcases h with ⟨-, rfl⟩ | ⟨rest, -, rfl⟩
  · rfl
  · rfl

/-- The engine completes a legal word as its command (R122). -/
theorem engineTurn_eq_exec {s : State} {w : Word} {i : Instr} (hw : s.fetch = some w) (hd : decode w = .ok i) :
    engineTurn s = exec i s := by
  simp only [engineTurn, hw, hd]

/-- Settles O4: the turn's state has the word of s, which its fetch reads from the snapshot. -/
theorem stepRunsDecodedCommand : Obligations.StepRunsDecodedCommand := by
  intro s a S i hrst hphase hdecode hnext
  have hs : s.fetch = some S.cmd := (fetch_eq_some_iff s S.cmd).2 ⟨hrst, S, hphase, rfl⟩
  have ha : a.fetch = some S.cmd := (fetch_eq_of_engineNext hnext).trans hs
  calc step s = engineTurn a := step_eq_engineTurn hnext
    _ = exec i a := engineTurn_eq_exec ha hdecode

end Sys2Proof.Machine
end

/-! SUPPORT. The state and its registers (10_state.md): what the bus reads and writes at each register, the invariant
kept by every step, and who uses the keys. -/

namespace Sys2Proof.Machine

open Sys2Proof.Claims

/-- The bounds of BUF_BYTES among the legal parameters (R8). -/
theorem bufBytes_bounds {p : Params} (h : p.wf = true) : 64 ≤ p.bufBytes ∧ p.bufBytes ≤ 65536 := by
  simp only [Params.wf, Bool.and_eq_true, decide_eq_true_eq] at h
  obtain ⟨⟨-, hmin⟩, hmax⟩ := h
  exact ⟨hmin, hmax⟩

/-- While not BUSY the phase is IDLE (R31). -/
theorem phase_eq_idle {s : State} (h : s.isBusy = false) : s.phase = .idle := by
  cases hp : s.phase with
  | idle => rfl
  | busy S => simp [State.isBusy, hp] at h

/-! ### The bus at a register's offset -/

/-- An accepted write at a register's offset is the register's write (R32, R85). -/
theorem memWrite_reg {s : State} {r : Reg} (v : Word) (hr : s.rst = false)
    (hacc : s.isBusy = false ∨ writableWhileBusy (.reg r) = true) :
    s.memWrite (regOffset r) 4 v = s.writeReg v r := by
  have ha : legalAccess (regOffset r) 4 = true := by simp [legalAccess, (regOffset_legal r).1]
  have hb : (s.isBusy && !writableWhileBusy (.reg r)) = false := by
    rcases hacc with h | h <;> simp [h]
  simp [State.memWrite, hr, ha, targetAt_regOffset, hb, State.writeTarget]

/-- A read that is not hidden returns, at a register's offset, the register's word (R32, R91). -/
theorem memReadValue_reg {s : State} {r : Reg} (hr : s.rst = false)
    (hacc : s.isBusy = false ∨ readableWhileBusy (.reg r) = true) :
    s.memReadValue (regOffset r) 4 = s.readReg r := by
  have ha : legalAccess (regOffset r) 4 = true := by simp [legalAccess, (regOffset_legal r).1]
  have hb : (s.isBusy && !readableWhileBusy (.reg r)) = false := by
    rcases hacc with h | h <;> simp [h]
  simp [State.memReadValue, hr, ha, targetAt_regOffset, hb, State.readTarget]

/-- Two states of one level of rst, one BUF_BYTES and one phase answer a read alike when what it reaches, if it is
not hidden, reads alike (R86, R91). -/
theorem memReadValue_congr {s t : State} {off : Nat} (n : Nat) (hrst : s.rst = t.rst) (hparams : s.params = t.params)
    (hbusy : s.isBusy = t.isBusy)
    (h : (t.isBusy = true → readableWhileBusy (targetAt t.params.bufBytes off) = true) →
      s.readTarget (targetAt t.params.bufBytes off) = t.readTarget (targetAt t.params.bufBytes off)) :
    s.memReadValue off n = t.memReadValue off n := by
  simp only [State.memReadValue, hrst, hparams, hbusy]
  split
  · rfl
  · split
    · rfl
    · split
      · rfl
      next hvisible => exact h fun hb => by simpa [hb] using hvisible

/-! ### CTRL and STATUS -/

/-- Settles O15: CTRL is written in both phases. -/
theorem ctrlWriteResetsOrSetsEnables : Obligations.CtrlWriteResetsOrSetsEnables := by
  intro s v hr
  have hw : s.memWrite 0x008 4 v = s.writeCtrl v := memWrite_reg (r := .ctrl) v hr (.inr rfl)
  rw [hw]
  rcases writeCtrl_cases s v with ⟨hbit, h⟩ | ⟨hbit, h⟩ <;> rw [h]
  · exact ⟨fun _ => by rw [State.resetAll, hr]; rfl, fun h0 => absurd (hbit.symm.trans h0) nofun⟩
  · exact ⟨fun h1 => absurd (hbit.symm.trans h1) nofun, fun _ => rfl⟩

/-- Settles O27: STATUS is written in both phases. -/
theorem statusWriteClearsNamedBits : Obligations.StatusWriteClearsNamedBits :=
  fun _ v hr => memWrite_reg (r := .status) v hr (.inr rfl)

/-- A Boolean placed at bit n is at bit n and nowhere else. -/
theorem getLsbD_bitAt {n : Nat} (hn : n < 32) (b : Bool) (j : Nat) :
    (bitAt n b).getLsbD j = (b && decide (j = n)) := by
  cases b with
  | false => simp [bitAt]
  | true =>
    by_cases hj : j = n
    · simp [bitAt, hj, hn]
    · have hpos : n ≤ j → j - n ≠ 0 := by omega
      simpa [bitAt, hj] using fun _ => hpos

/-- The bits of CTRL as read (R35). -/
theorem getLsbD_ctrlWord (s : State) (j : Nat) :
    s.ctrlWord.getLsbD j = (s.ctrl.irqEn && decide (j = 0) || s.ctrl.strictFlags && decide (j = 2)) := by
  simp [State.ctrlWord, getLsbD_bitAt]

/-- The bits of STATUS as read (R38). -/
theorem getLsbD_statusWord (s : State) (j : Nat) :
    s.statusWord.getLsbD j = (s.isBusy && decide (j = 0) || s.done && decide (j = 1) || s.err && decide (j = 2)
      || s.werr && decide (j = 3) || s.buserr && decide (j = 4)) := by
  simp [State.statusWord, getLsbD_bitAt]

/-- ERR shows that ERR_CODE is not 0 (R38). -/
theorem err_iff (s : State) : s.err = true ↔ s.errCode ≠ 0 := by
  simp [State.err]

/-- Settles O28: neither read is hidden while BUSY, and each bit comes from its table. -/
theorem controlAndStatusBits : Obligations.ControlAndStatusBits := by
  intro s hr
  have hc : s.memReadValue 0x008 4 = s.ctrlWord := memReadValue_reg (r := .ctrl) hr (.inr rfl)
  have hw : s.memReadValue 0x010 4 = s.statusWord := memReadValue_reg (r := .status) hr (.inr rfl)
  simp only [hc, hw, getLsbD_ctrlWord, getLsbD_statusWord]
  refine ⟨by simp, by simp, by simp, fun j hj => ?_, ?_, by simp, ?_, by simp, by simp, fun j hj => ?_⟩
  · have : j ≠ 0 ∧ j ≠ 2 := by omega
    simp [this]
  · simp [isBusy_iff]
  · simp [err_iff]
  · have : j ≠ 0 ∧ j ≠ 1 ∧ j ≠ 2 ∧ j ≠ 3 ∧ j ≠ 4 := by omega
    simp [this]

/-! ### The RW registers -/

/-- The writable bits of each RW register (R42, R45 to R52). -/
def rwMask : Reg → Option Word
  | .inLen => some 0x1FFFF
  | .hdrVersion | .hdrEncType => some 0xF
  | .hdrFlags => some 0x0F0F
  | .msgId | .srcNodeLo | .srcNodeHi | .dstNodeLo | .dstNodeHi => some 0xFFFFFFFF
  | .keyId => some 0xFFFF
  | .keyType => some 0x3
  | _ => none

/-- Every row of the table of RW registers is a register at its offset with its writable bits. -/
theorem exists_reg_of_mem_rwRegisters {off : Nat} {mask : Word} (h : (off, mask) ∈ rwRegisters) :
    ∃ r, off = regOffset r ∧ rwMask r = some mask := by
  simp only [rwRegisters, List.mem_cons, Prod.mk.injEq, List.not_mem_nil, or_false] at h
  rcases h with ⟨rfl, rfl⟩ | ⟨rfl, rfl⟩ | ⟨rfl, rfl⟩ | ⟨rfl, rfl⟩ | ⟨rfl, rfl⟩ | ⟨rfl, rfl⟩ | ⟨rfl, rfl⟩ |
    ⟨rfl, rfl⟩ | ⟨rfl, rfl⟩ | ⟨rfl, rfl⟩ | ⟨rfl, rfl⟩
  exacts [⟨.inLen, rfl, rfl⟩, ⟨.hdrVersion, rfl, rfl⟩, ⟨.hdrEncType, rfl, rfl⟩, ⟨.hdrFlags, rfl, rfl⟩,
    ⟨.msgId, rfl, rfl⟩, ⟨.srcNodeLo, rfl, rfl⟩, ⟨.srcNodeHi, rfl, rfl⟩, ⟨.dstNodeLo, rfl, rfl⟩,
    ⟨.dstNodeHi, rfl, rfl⟩, ⟨.keyId, rfl, rfl⟩, ⟨.keyType, rfl, rfl⟩]

/-- An offset with a field that is not 0 is the offset of a RW register. -/
theorem exists_reg_of_rwField_ne_zero {s : State} {off : Nat} (h : rwField s off ≠ 0) :
    ∃ r mask, off = regOffset r ∧ rwMask r = some mask := by
  unfold rwField at h
  split at h
  exacts [⟨.inLen, _, rfl, rfl⟩, ⟨.hdrVersion, _, rfl, rfl⟩, ⟨.hdrEncType, _, rfl, rfl⟩, ⟨.hdrFlags, _, rfl, rfl⟩,
    ⟨.msgId, _, rfl, rfl⟩, ⟨.srcNodeLo, _, rfl, rfl⟩, ⟨.srcNodeHi, _, rfl, rfl⟩, ⟨.dstNodeLo, _, rfl, rfl⟩,
    ⟨.dstNodeHi, _, rfl, rfl⟩, ⟨.keyId, _, rfl, rfl⟩, ⟨.keyType, _, rfl, rfl⟩, absurd rfl h]

/-- A RW register reads as the field the commands read (R138). -/
theorem readReg_toNat {r : Reg} {mask : Word} (h : rwMask r = some mask) (s : State) :
    (s.readReg r).toNat = rwField s (regOffset r) := by
  cases r <;> cases h
  case msgId | srcNodeLo | srcNodeHi | dstNodeLo | dstNodeHi => rfl
  all_goals exact BitVec.toNat_setWidth_of_le (by decide)

/-- Narrowing a word and widening it again clears the bits above. -/
theorem setWidth_setWidth_eq_and {n : Nat} (hn : n ≤ 32) (v : Word) :
    (v.setWidth n).setWidth 32 = v &&& BitVec.ofNat 32 (2 ^ n - 1) := by
  apply BitVec.eq_of_toNat_eq
  have hpow : 2 ^ n ≤ 2 ^ 32 := Nat.pow_le_pow_right (by decide) hn
  have hmask : (2 ^ n - 1) % 2 ^ 32 = 2 ^ n - 1 := Nat.mod_eq_of_lt (by omega)
  have hlow : v.toNat % 2 ^ n < 2 ^ 32 := (Nat.mod_le _ _).trans_lt v.isLt
  rw [BitVec.toNat_and, BitVec.toNat_ofNat, hmask, Nat.and_two_pow_sub_one_eq_mod, BitVec.toNat_setWidth,
    BitVec.toNat_setWidth, Nat.mod_eq_of_lt hlow]

/-- HDR_FLAGS keeps the bits 0x0F0F of a word (R47). -/
theorem setWidth_flags_eq_and (v : Word) : (v.setWidth 16 &&& flagsMask).setWidth 32 = v &&& 0x0F0F := by
  rw [BitVec.setWidth_and, setWidth_setWidth_eq_and (by decide), BitVec.and_assoc]
  rfl

/-- A RW register reads back what was written less the reserved bits. -/
theorem readReg_writeReg_same {r : Reg} {mask : Word} (h : rwMask r = some mask) (s : State) (v : Word) :
    (s.writeReg v r).readReg r = v &&& mask := by
  have hall : v &&& 0xFFFFFFFF = v := BitVec.and_allOnes
  cases r <;> cases h
  case hdrFlags => exact setWidth_flags_eq_and v
  case msgId | srcNodeLo | srcNodeHi | dstNodeLo | dstNodeHi => exact hall.symm
  all_goals exact setWidth_setWidth_eq_and (by decide) v

/-- A write of a RW register leaves every other register's word. -/
theorem readReg_writeReg_ne {r r' : Reg} {mask : Word} (h : rwMask r = some mask) (hne : r' ≠ r) (s : State)
    (v : Word) : (s.writeReg v r).readReg r' = s.readReg r' := by
  -- Each RW register against each register: on the diagonal excluded, and off it another field is read.
  cases r <;> cases h <;> cases r' <;> first | exact absurd rfl hne | rfl

/-- A write of a RW register changes nothing but IN_LEN, the header registers and KEY_TYPE. -/
theorem writeReg_rw_frame {r : Reg} {mask : Word} (h : rwMask r = some mask) (s : State) (v : Word) :
    { s.writeReg v r with
      inLen := s.inLen, hdr := s.hdr, keys := { (s.writeReg v r).keys with keyType := s.keys.keyType } } = s := by
  cases r <;> cases h <;> rfl

/-- A write of a RW register stores the value less the reserved bits in its field and leaves every other field. -/
theorem rwField_writeReg {r : Reg} {mask : Word} (h : rwMask r = some mask) (s : State) (v : Word) :
    rwField (s.writeReg v r) (regOffset r) = (v &&& mask).toNat ∧
    ∀ off, off ≠ regOffset r → rwField (s.writeReg v r) off = rwField s off := by
  refine ⟨by rw [← readReg_toNat h, readReg_writeReg_same h], fun off hne => ?_⟩
  by_cases hex : ∃ r' mask', off = regOffset r' ∧ rwMask r' = some mask'
  · obtain ⟨r', mask', rfl, h'⟩ := hex
    have hreg : r' ≠ r := fun e => hne (congrArg regOffset e)
    rw [← readReg_toNat h', ← readReg_toNat h', readReg_writeReg_ne h hreg]
  · have hzero (t : State) : rwField t off = 0 := by
      by_contra h0
      exact hex (exists_reg_of_rwField_ne_zero h0)
    rw [hzero, hzero]

/-- A write of a RW register leaves rst, the parameters and the phase, so which reads are hidden. -/
theorem writeReg_rw_visibility {r : Reg} {mask : Word} (h : rwMask r = some mask) (s : State) (v : Word) :
    (s.writeReg v r).rst = s.rst ∧ (s.writeReg v r).params = s.params ∧ (s.writeReg v r).isBusy = s.isBusy := by
  cases r <;> cases h <;> exact ⟨rfl, rfl, rfl⟩

/-- A write of a RW register leaves what every other offset reads. -/
theorem memReadValue_writeReg_ne {r : Reg} {mask : Word} (h : rwMask r = some mask) (s : State) (v : Word)
    {off : Nat} (hne : off ≠ regOffset r) (n : Nat) :
    (s.writeReg v r).memReadValue off n = s.memReadValue off n := by
  obtain ⟨hrst, hparams, hbusy⟩ := writeReg_rw_visibility h s v
  refine memReadValue_congr n hrst hparams hbusy fun _ => ?_
  cases ht : targetAt s.params.bufBytes off with
  | reg r' => exact readReg_writeReg_ne h (fun e => hne (e ▸ eq_regOffset_of_targetAt ht)) s v
  | inBuf k | outBuf k | reserved => cases r <;> cases h <;> rfl

/-- Settles O23: the row names its register, and the write is that register's. -/
theorem registerWriteReadsBackMasked : Obligations.RegisterWriteReadsBackMasked := by
  intro s off mask v hr hp hrow
  obtain ⟨r, rfl, hmask⟩ := exists_reg_of_mem_rwRegisters hrow
  have hidle : s.isBusy = false := by simp [State.isBusy, hp]
  obtain ⟨hrst, -, hbusy⟩ := writeReg_rw_visibility hmask s v
  obtain ⟨hsame, hother⟩ := rwField_writeReg hmask s v
  rw [memWrite_reg v hr (.inl hidle)]
  refine ⟨hsame, hother, ?_, fun off' hne => memReadValue_writeReg_ne hmask s v hne 4, writeReg_rw_frame hmask s v⟩
  rw [memReadValue_reg (hrst.trans hr) (.inl (hbusy.trans hidle)), readReg_writeReg_same hmask]

/-- BUF_SIZE has room for every legal BUF_BYTES (R8, R34). -/
theorem readReg_bufSize {s : State} (h : s.params.wf = true) : (s.readReg .bufSize).toNat = s.params.bufBytes := by
  have := (bufBytes_bounds h).2
  simp only [State.readReg, BitVec.toNat_setWidth, BitVec.toNat_ofNat]
  omega

/-- Settles O55: each register reads at its offset, and widening keeps its number. -/
theorem idleReadsReturnRegisters : Obligations.IdleReadsReturnRegisters := by
  intro s hr hp
  have hidle : s.isBusy = false := by simp [State.isBusy, hp]
  have hread (r : Reg) : s.memReadValue (regOffset r) 4 = s.readReg r := memReadValue_reg hr (.inl hidle)
  have hwide {n : Nat} {x : BitVec n} (hn : n ≤ 32) : (x.setWidth 32).toNat = x.toNat :=
    BitVec.toNat_setWidth_of_le hn
  refine ⟨hread .id, fun hwf => ?_, hread .cmd, ?_, ?_, ?_, ?_, fun row hrow => ?_⟩
  · exact (congrArg BitVec.toNat (hread .bufSize)).trans (readReg_bufSize hwf)
  · exact (congrArg BitVec.toNat (hread .errCode)).trans (hwide (by decide))
  · exact (congrArg BitVec.toNat (hread .errDetail)).trans (hwide (by decide))
  · exact (congrArg BitVec.toNat (hread .outLen)).trans (hwide (by decide))
  · exact (congrArg BitVec.toNat (hread .hdrLen)).trans (hwide (by decide))
  · obtain ⟨r, hoff, hmask⟩ := exists_reg_of_mem_rwRegisters hrow
    rw [hoff, hread, readReg_toNat hmask]

/-! ### Reset, reserved offsets and the keys -/

/-- CTRL and STATUS read 0 after reset (R61). -/
theorem ctrlWord_statusWord_resetWith (p : Params) :
    (State.resetWith p).ctrlWord = 0 ∧ (State.resetWith p).statusWord = 0 := by
  simp [State.ctrlWord, State.statusWord, State.isBusy, State.err, bitAt]

/-- After reset every target but ID and BUF_SIZE reads 0 (R61). -/
theorem readTarget_resetWith (p : Params) {t : Target} (hid : t ≠ .reg .id) (hsize : t ≠ .reg .bufSize) :
    (State.resetWith p).readTarget t = 0 := by
  cases t with
  | reg r =>
    cases r with
    | id => exact absurd rfl hid
    | bufSize => exact absurd rfl hsize
    | ctrl => exact (ctrlWord_statusWord_resetWith p).1
    | status => exact (ctrlWord_statusWord_resetWith p).2
    | _ => rfl
  | inBuf k | outBuf k | reserved => rfl

/-- Settles O14: an aligned offset reads its target, and a misaligned one 0. -/
theorem resetLeavesListedValues : Obligations.ResetLeavesListedValues := by
  intro p hp s
  have hread (r : Reg) : s.memReadValue (regOffset r) 4 = s.readReg r := memReadValue_reg rfl (.inl rfl)
  refine ⟨hread .id, (congrArg BitVec.toNat (hread .bufSize)).trans (readReg_bufSize hp), fun off h0 h4 => ?_,
    rfl, rfl, (ctrlWord_statusWord_resetWith p).2, rfl, rfl, rfl, rfl, rfl, rfl, rfl, fun _ => rfl, fun _ => rfl, rfl⟩
  by_cases ha : off % 4 = 0
  · rw [memReadValue_idle rfl rfl ha]
    exact readTarget_resetWith p (fun e => h0 (eq_regOffset_of_targetAt e)) fun e => h4 (eq_regOffset_of_targetAt e)
  · simp [State.memReadValue, legalAccess, ha]

/-- The reserved offsets of the window, for buffers of n bytes (R56 to R58, R81). -/
theorem targetAt_reserved {n off : Nat} (h : (0x074 ≤ off ∧ off < 0x10000) ∨
    (0x10000 + n ≤ off ∧ off < 0x20000) ∨ 0x20000 + n ≤ off) : targetAt n off = .reserved := by
  have hreg : regAt off = none := by
    by_contra hne
    obtain ⟨r, hr⟩ := Option.ne_none_iff_exists'.1 hne
    have := (regOffset_legal r).2
    have := (regAt_eq_some_iff off r).1 hr
    omega
  unfold targetAt
  rw [hreg]
  split
  · rfl
  · split
    · exact if_neg (by omega)
    · split
      · exact if_neg (by omega)
      · rfl

/-- From OUT_BUF on, nothing of the window takes a write (R58, R81). -/
theorem writeTarget_from_outBuf (s : State) (v : Word) {n off : Nat} (h : 0x20000 ≤ off) :
    s.writeTarget v (targetAt n off) = s := by
  have h1 : ¬ off < 0x10000 := by omega
  have h2 : ¬ off < 0x20000 := by omega
  simp only [targetAt, h1, h2, if_false]
  split
  · split <;> rfl
  · rfl

/-- Settles O22: each range reaches a RO register, OUT_BUF or a reserved target. -/
theorem readOnlyAndReservedIgnoreWrites : Obligations.ReadOnlyAndReservedIgnoreWrites := by
  intro s off v hr hp ha
  constructor
  · intro h
    rw [memWrite_idle v hr hp ha]
    rcases h with hro | hres | hbuf
    · simp only [List.mem_cons, List.not_mem_nil, or_false] at hro
      rcases hro with rfl | rfl | rfl | rfl | rfl | rfl <;> rfl
    · rw [targetAt_reserved (.inl hres)]
      rfl
    · rcases Nat.lt_or_ge off 0x20000 with hlt | hge
      · rw [targetAt_reserved (.inr (.inl ⟨hbuf, hlt⟩))]
        rfl
      · exact writeTarget_from_outBuf s v hge
  · intro h
    have heffect : s.memReadEffect off 4 = s := by simp [State.memReadEffect, legalAccess, ha]
    rw [State.memRead, heffect, memReadValue_idle hr hp ha, targetAt_reserved h]
    rfl

/-- What a target reads depends on the keys through KEY_TYPE alone (R53, R54). -/
theorem readTarget_keys {s : State} {k : Keys} (h : k.keyType = s.keys.keyType) (t : Target) :
    { s with keys := k }.readTarget t = s.readTarget t := by
  cases t with
  | reg r =>
    cases r with
    | keyType => exact congrArg (BitVec.setWidth 32) h
    | _ => rfl
  | inBuf k | outBuf k | reserved => rfl

/-- What is readable while BUSY depends neither on the keys nor on the snapshot (R59, R91). -/
theorem readTarget_busy {s : State} {k : Keys} {S S' : Snapshot} {t : Target} (h : readableWhileBusy t = true) :
    { s with phase := .busy S, keys := k }.readTarget t = { s with phase := .busy S' }.readTarget t := by
  cases t with
  | reg r => cases r <;> cases h <;> rfl
  | inBuf k | outBuf k | reserved => cases h

/-- Settles O25: while BUSY, what the keys and the snapshot could show is hidden. -/
theorem keysNeverReachTheBus : Obligations.KeysNeverReachTheBus := fun _ _ _ _ _ n =>
  ⟨fun hk => memReadValue_congr n rfl rfl rfl fun _ => readTarget_keys hk _,
    memReadValue_congr n rfl rfl rfl fun hvisible => readTarget_busy (hvisible rfl)⟩

/-- DATA_KEY0 to DATA_KEY3 and INT_KEY0 to INT_KEY4. -/
def keyRegs : List Reg :=
  [.dataKey0, .dataKey1, .dataKey2, .dataKey3, .intKey0, .intKey1, .intKey2, .intKey3, .intKey4]

/-- The keys after v is stored in a key register; the other registers hold no key. -/
def Keys.store (k : Keys) (v : Word) : Reg → Keys
  | .dataKey0 => { k with dataKey0 := v }
  | .dataKey1 => { k with dataKey1 := v }
  | .dataKey2 => { k with dataKey2 := v }
  | .dataKey3 => { k with dataKey3 := v }
  | .intKey0 => { k with intKey0 := v }
  | .intKey1 => { k with intKey1 := v }
  | .intKey2 => { k with intKey2 := v }
  | .intKey3 => { k with intKey3 := v }
  | .intKey4 => { k with intKey4 := v }
  | _ => k

/-- A write of a key register stores its word among the keys and changes nothing else (R53, R54). -/
theorem writeReg_key {r : Reg} (h : r ∈ keyRegs) (s : State) (v : Word) :
    s.writeReg v r = { s with keys := s.keys.store v r } := by
  simp only [keyRegs, List.mem_cons, List.not_mem_nil, or_false] at h
  rcases h with rfl | rfl | rfl | rfl | rfl | rfl | rfl | rfl | rfl <;> rfl

/-- Writes of key registers while IDLE, one after the other, store their words among the keys. -/
theorem foldl_memWrite_key {s : State} (hr : s.rst = false) (hidle : s.isBusy = false) (l : List (Reg × Word))
    (hl : ∀ p ∈ l, p.1 ∈ keyRegs) :
    l.foldl (fun a p => a.memWrite (regOffset p.1) 4 p.2) s
      = { s with keys := l.foldl (fun k p => k.store p.2 p.1) s.keys } := by
  induction l generalizing s with
  | nil => rfl
  | cons p l ih =>
    obtain ⟨r, v⟩ := p
    rw [List.foldl_cons, memWrite_reg v hr (.inl hidle), writeReg_key (hl (r, v) (by simp))]
    exact ih hr hidle fun q hq => hl q (by simp [hq])

/-- The LE bytes of a number are its bytes, least significant first. -/
theorem leBytes_eq_lowFirst (n v : Nat) : leBytes n v = lowFirst n v := by
  apply List.ext_getElem?
  intro j
  rw [leBytes_getElem?, lowFirst]
  by_cases hj : j < n <;> simp [hj, byteOf]

/-- The key registers read 0 (R53, R54). -/
theorem memReadValue_keyRange {s : State} (hr : s.rst = false) (hidle : s.isBusy = false) {off : Nat}
    (h1 : 0x050 ≤ off) (h2 : off < 0x074) : s.memReadValue off 4 = 0 := by
  by_cases ha : off % 4 = 0
  · have hoff : off ∈ [0x050, 0x054, 0x058, 0x05C, 0x060, 0x064, 0x068, 0x06C, 0x070] := by
      simp only [List.mem_cons, List.not_mem_nil, or_false]
      omega
    rw [memReadValue_idle hr (phase_eq_idle hidle) ha]
    simp only [List.mem_cons, List.not_mem_nil, or_false] at hoff
    rcases hoff with rfl | rfl | rfl | rfl | rfl | rfl | rfl | rfl | rfl <;> rfl
  · simp [State.memReadValue, legalAccess, ha]

/-- Settles O24: the nine writes are those of the nine key registers. -/
theorem keyRegistersPackAndHide : Obligations.KeyRegistersPackAndHide := by
  intro s d0 d1 d2 d3 i0 i1 i2 i3 i4 w hr hp t u
  have hidle : s.isBusy = false := by simp [State.isBusy, hp]
  have hu : u = { s with keys := ⟨s.keys.keyType, d0, d1, d2, d3, i0, i1, i2, i3, i4⟩ } :=
    foldl_memWrite_key hr hidle
      [(.dataKey0, d0), (.dataKey1, d1), (.dataKey2, d2), (.dataKey3, d3), (.intKey0, i0), (.intKey1, i1),
        (.intKey2, i2), (.intKey3, i3), (.intKey4, i4)]
      (by simp [keyRegs])
  rw [hu]
  refine ⟨?_, ?_, rfl, rfl, fun off h1 h2 => memReadValue_keyRange hr hidle h1 h2⟩
  · simp only [Snapshot.dataKey, capture_keys, leBytes_eq_lowFirst]
  · simp only [Snapshot.intKey, capture_keys, leBytes_eq_lowFirst]

/-! ### The invariant: one lemma for each kind of change of the state -/

/-- The masking of HDR_FLAGS done twice is done once (R47). -/
theorem flagsMask_idem (f : BitVec 16) : f &&& flagsMask &&& flagsMask = f &&& flagsMask := by
  rw [BitVec.and_assoc, BitVec.and_self]

/-- The reset state, at either level of rst and with any host side, meets the invariant (R61, R361). -/
theorem State.Inv.of_reset {p : Params} (hp : p.wf = true) (level : Bool) (w : Word) (l : List Event) :
    State.Inv { State.resetWith p with rst := level, readData := w, script := l } where
  params := hp
  inBufWf := ⟨.nil, nofun⟩
  inBufWithin := nofun
  outBufWf := ⟨.nil, nofun⟩
  outBufWithin := nofun
  outLenFits := Nat.zero_le _
  flagsMasked := BitVec.zero_and
  hdrLenLegal := by simp
  errorPair := .inl ⟨rfl, rfl⟩
  errorHidesOutput := fun _ => ⟨rfl, rfl⟩
  notBusyAndDone := fun _ => rfl
  snapshotCurrent := nofun
  rstHolds := fun _ => rfl

/-- The schedule and the word on the host's side of the bus are outside the invariant. -/
theorem State.Inv.set_hostSide {s : State} (h : s.Inv) (w : Word) (l : List Event) :
    State.Inv { s with readData := w, script := l } :=
  { h with rstHolds := fun hr => congrArg (fun t : State => { t with readData := w, script := l }) (h.rstHolds hr) }

/-- With rst released, CTRL and the W1C bits of STATUS may take any values, but DONE may not rise (R36, R38). -/
theorem State.Inv.set_control {s : State} (h : s.Inv) (hr : s.rst = false) (c : Ctrl) {d : Bool} (w b : Bool)
    (hd : d = true → s.done = true) : State.Inv { s with ctrl := c, done := d, werr := w, buserr := b } :=
  { h with
    notBusyAndDone := fun hb => by
      cases d with
      | false => rfl
      | true => exact absurd (hd rfl) (by simp [h.notBusyAndDone hb])
    rstHolds := fun h1 => absurd (hr.symm.trans h1) nofun }

/-- While IDLE with rst released, the registers that hold operands may take any legal values (R42 to R57). -/
theorem State.Inv.set_operands {s : State} (h : s.Inv) (hr : s.rst = false) (hp : s.phase = .idle) (n : BitVec 17)
    {hl : BitVec 5} {hd : Header} (ks : Keys) {m : Memory} (hhl : hl.toNat ∈ [0, 6, 8, 14, 16, 22, 24])
    (hf : hd.flags &&& flagsMask = hd.flags) (hm : Memory.wf m) (hb : Memory.within s.params.bufBytes m) :
    State.Inv { s with inLen := n, hdrLen := hl, hdr := hd, keys := ks, inBuf := m } :=
  { h with
    inBufWf := hm
    inBufWithin := hb
    flagsMasked := hf
    hdrLenLegal := hhl
    snapshotCurrent := fun _ hS => absurd (hp.symm.trans hS) nofun
    rstHolds := fun h1 => absurd (hr.symm.trans h1) nofun }

/-- Issue takes the snapshot of the registers as they stand (R120). -/
theorem State.Inv.issue {s : State} (h : s.Inv) (hr : s.rst = false) (w : Word) : (s.issue w).Inv :=
  { h with
    notBusyAndDone := fun _ => rfl
    snapshotCurrent := fun S hS => by
      cases hS
      exact ⟨rfl, rfl, rfl, rfl⟩
    rstHolds := fun h1 => absurd (hr.symm.trans h1) nofun }

/-- The error completion records a row of R321 and hides the output (R122). -/
theorem State.Inv.raiseError {s : State} (h : s.Inv) (hr : s.rst = false) (e : CmdError) : (s.raiseError e).Inv :=
  { h with
    outBufWf := ⟨.nil, nofun⟩
    outBufWithin := nofun
    outLenFits := Nat.zero_le _
    errorPair := .inr ⟨e, rfl, rfl⟩
    errorHidesOutput := fun _ => ⟨rfl, rfl⟩
    notBusyAndDone := nofun
    snapshotCurrent := nofun
    rstHolds := fun h1 => absurd (hr.symm.trans h1) nofun }

/-! ### The success completion -/

/-- The marks that every success completion leaves beside its output and its register writes (R122). -/
def State.succeed (s : State) : State := { s with errCode := 0, errDetail := 0 }.finish

/-- The success marks may be set before the register writes. -/
theorem succeed_applyWrites (s : State) (upd : List RegWrite) :
    (s.applyWrites upd).succeed = s.succeed.applyWrites upd := by
  induction upd generalizing s with
  | nil => rfl
  | cons w upd ih =>
    have hw : (s.applyWrite w).succeed = s.succeed.applyWrite w := by cases w <;> rfl
    exact (ih (s.applyWrite w)).trans (congrArg (State.applyWrites · upd) hw)

/-- A success completion sets the marks, writes the registers and stores the output (R122). -/
theorem complete_ok (s : State) (r : Success) :
    s.complete (.ok r) = (s.succeed.applyWrites r.upd).storeOutput r.out := by
  have hout : s.complete (.ok r) = (s.applyWrites r.upd).succeed.storeOutput r.out := by
    obtain ⟨out, upd⟩ := r
    cases out <;> rfl
  rw [hout, succeed_applyWrites]

/-- The success marks may be set from any state of the invariant, since no error then stands (R122). -/
theorem State.Inv.succeed {s : State} (h : s.Inv) (hr : s.rst = false) : s.succeed.Inv :=
  { h with
    errorPair := .inl ⟨rfl, rfl⟩
    errorHidesOutput := fun h0 => absurd rfl h0
    notBusyAndDone := nofun
    snapshotCurrent := nofun
    rstHolds := fun h1 => absurd (hr.symm.trans h1) nofun }

/-- A register write of a result puts 0 or a header length into HDR_LEN (R44, R134). -/
def RegWrite.legal : RegWrite → Prop
  | .hdrLen v => v.toNat ∈ [0, 6, 8, 14, 16, 22, 24]
  | _ => True

/-- A legal register write keeps the invariant once the snapshot is discarded (R122). -/
theorem State.Inv.applyWrite {s : State} (h : s.Inv) (hr : s.rst = false) (hp : s.phase = .idle) {w : RegWrite}
    (hw : w.legal) : (s.applyWrite w).Inv := by
  cases w with
  | hdrFlags v =>
    exact h.set_operands hr hp _ _ h.hdrLenLegal (flagsMask_idem v) h.inBufWf h.inBufWithin
  | hdrLen v => exact h.set_operands hr hp _ _ hw h.flagsMasked h.inBufWf h.inBufWithin
  | inBufZero => exact h.set_operands hr hp _ _ h.hdrLenLegal h.flagsMasked ⟨.nil, nofun⟩ nofun
  | _ => exact h.set_operands hr hp _ _ h.hdrLenLegal h.flagsMasked h.inBufWf h.inBufWithin

/-- The legal register writes of a result keep the invariant, one after the other (R122). -/
theorem State.Inv.applyWrites {s : State} (h : s.Inv) (hr : s.rst = false) (hp : s.phase = .idle) {upd : List RegWrite}
    (hupd : ∀ w ∈ upd, w.legal) : (s.applyWrites upd).Inv := by
  induction upd generalizing s with
  | nil => exact h
  | cons w upd ih =>
    obtain ⟨-, hrst, hphase, -⟩ := applyWrite_frame s w
    exact ih (h.applyWrite hr hp (hupd w (by simp))) (hrst.trans hr) (hphase.trans hp)
      fun x hx => hupd x (by simp [hx])

/-- Output bytes that fit are stored canonically, with OUT_LEN their number; no error may stand (R58, R122). -/
theorem State.Inv.storeBytes {s : State} (h : s.Inv) (hr : s.rst = false) (he : s.errCode = 0) {b : Bytes}
    (hb : b.length ≤ s.params.bufBytes) : (s.storeOutput (.bytes b)).Inv := by
  have hlen : (BitVec.ofNat 17 b.length).toNat = b.length := by
    have := (bufBytes_bounds h.params).2
    rw [BitVec.toNat_ofNat]
    omega
  exact
    { h with
      outBufWf := ofBytes_wf b
      outBufWithin := by
        rw [storeBytes_outLen, hlen]
        exact ofBytes_within b
      outLenFits := by
        rw [storeBytes_outLen, hlen]
        exact hb
      errorHidesOutput := fun h0 => absurd he h0
      rstHolds := fun h1 => absurd (hr.symm.trans h1) nofun }

/-- The successes that fit buffers of n bytes and write legal register values (R121). -/
def Success.legal (n : Nat) (r : Success) : Prop :=
  (∀ b, r.out = .bytes b → b.length ≤ n) ∧ ∀ w ∈ r.upd, w.legal

/-- A completion with a legal result keeps the invariant (R121, R122). -/
theorem State.Inv.complete {s : State} (h : s.Inv) (hr : s.rst = false) {r : CmdResult}
    (hres : ∀ x, r = .ok x → x.legal s.params.bufBytes) : (s.complete r).Inv := by
  cases r with
  | error e => exact h.raiseError hr e
  | ok x =>
    obtain ⟨hout, hupd⟩ := hres x rfl
    have hw : (s.succeed.applyWrites x.upd).Inv := (h.succeed hr).applyWrites hr rfl hupd
    obtain ⟨hparams, hrst, -, -, -, -, -, herr, -⟩ := applyWrites_frame s.succeed x.upd
    rw [complete_ok]
    cases ho : x.out with
    | keep => exact hw
    | bytes b => exact hw.storeBytes (hrst.trans hr) herr (hparams ▸ hout b ho)

/-! ### Every command's result is legal -/

/-- A header length in HDR_LEN is legal (R134). -/
theorem legal_hdrLen (f : BitVec 16) (enc : BitVec 4) :
    ∀ w ∈ [RegWrite.hdrLen (BitVec.ofNat 5 (headerLen f enc))], w.legal := by
  intro w hw
  rw [List.mem_singleton.1 hw, RegWrite.legal, hdrLen_toNat]
  exact List.mem_cons_of_mem 0 (headerLen_mem f enc)

/-- A parsed header's update list is legal (R161, R165). -/
theorem headerWrites_legal {S : Snapshot} {m : Bytes} {p : Parsed} (hp : parseHeader S m = .ok p) :
    ∀ w ∈ headerWrites p, w.legal := by
  obtain ⟨-, -, -, -, hlen, -⟩ := (parseHeader_ok_iff S m p).1 hp
  have hlegal : (RegWrite.hdrLen (BitVec.ofNat 5 p.len)).legal := hlen ▸ legal_hdrLen _ _ _ List.mem_cons_self
  simpa [headerWrites, RegWrite.legal] using hlegal

/-- A success with an output of at most n bytes and a legal update list. -/
theorem legal_bytes {n : Nat} {b : Bytes} {upd : List RegWrite} (hb : b.length ≤ n) (hu : ∀ w ∈ upd, w.legal) :
    Success.legal n ⟨.bytes b, upd⟩ :=
  ⟨fun _ h => by cases h; exact hb, hu⟩

/-- A success of PACK_HDR is the packed header and its length (R160). -/
theorem packHdrResult_ok {S : Snapshot} {r : Success} (h : packHdrResult S = .ok r) :
    r = ⟨.bytes (packHeader S.header), [.hdrLen (BitVec.ofNat 5 (headerLen S.header.flags S.header.enc))]⟩ := by
  unfold packHdrResult at h
  split at h <;> cases h
  rw [packHeader_length]

/-- A success of UNPACK_HDR is an empty output and a parsed header (R165). -/
theorem unpackHdrResult_ok {n : Nat} {S : Snapshot} {r : Success} (h : unpackHdrResult n S = .ok r) :
    ∃ p, parseHeader S S.input = .ok p ∧ r = ⟨.bytes [], headerWrites p⟩ := by
  rw [unpackHdrResult, ite_error_eq_ok] at h
  obtain ⟨-, h⟩ := h
  split at h <;> cases h
  exact ⟨_, ‹_›, rfl⟩

/-- A success of ENCODE is a message that fits and its header's length (R282, R286). -/
theorem encodeResult_ok {n : Nat} {S : Snapshot} {r : Success} (h : encodeResult n S = .ok r) :
    ∃ b, b.length ≤ n ∧
      r = ⟨.bytes b, [.hdrLen (BitVec.ofNat 5 (headerLen S.header.flags S.header.enc))]⟩ := by
  unfold encodeResult at h
  split at h
  case h_1 => cases h
  case h_2 enc _ =>
    simp only [ite_error_eq_ok] at h
    obtain ⟨-, -, hcap, h⟩ := h
    cases h
    rw [packHeader_length] at hcap ⊢
    refine ⟨_, ?_, rfl⟩
    rw [List.length_append, sealRegion_length, packHeader_length]
    omega

/-- A success of DECODE is a payload no longer than the input, whose length is checked, and a parsed header (R290). -/
theorem decodeResult_ok {n : Nat} {S : Snapshot} {r : Success} (h : decodeResult n S = .ok r) :
    ∃ b p, b.length ≤ n ∧ parseHeader S S.input = .ok p ∧ r = ⟨.bytes b, headerWrites p⟩ := by
  rw [decodeResult, ite_error_eq_ok] at h
  obtain ⟨hin, h⟩ := h
  dsimp only at h
  split at h
  case h_1 => cases h
  case h_2 p hparse =>
    simp only [ite_error_eq_ok] at h
    obtain ⟨-, -, h⟩ := h
    split at h <;> cases h
    have hlen := openRegion_length ‹_›
    rw [slice_length, input_length] at hlen
    exact ⟨_, p, by omega, hparse, rfl⟩

/-- Every success a command answers is legal (R121). -/
theorem resultOf_legal {i : Instr} {s : State} (hn : 64 ≤ s.params.bufBytes) {r : Success}
    (h : resultOf i s = .ok r) : r.legal s.params.bufBytes := by
  cases i with
  | nop => cases h; exact ⟨nofun, nofun⟩
  | encode =>
    obtain ⟨b, hb, rfl⟩ := encodeResult_ok h
    exact legal_bytes hb (legal_hdrLen _ _)
  | decode =>
    obtain ⟨b, p, hb, hp, rfl⟩ := decodeResult_ok h
    exact legal_bytes hb (headerWrites_legal hp)
  | packHdr =>
    obtain rfl := packHdrResult_ok h
    have hle := headerLen_le s.operands.header.flags s.operands.header.enc
    exact legal_bytes (by rw [packHeader_length]; omega) (legal_hdrLen _ _)
  | unpackHdr =>
    obtain ⟨p, hp, rfl⟩ := unpackHdrResult_ok h
    exact legal_bytes (Nat.zero_le _) (headerWrites_legal hp)
  | buildPseudo =>
    cases h
    refine legal_bytes ?_ nofun
    rw [pseudoHeader_length]
    split <;> omega
  | deriveCtr =>
    cases h
    exact legal_bytes (by rw [ctrInit_length]; omega) nofun
  | deriveNonce =>
    cases h
    exact legal_bytes (by rw [eaxNonce_length]; omega) nofun
  | zeroize =>
    cases h
    exact legal_bytes (Nat.zero_le _) (by simp [RegWrite.legal])

/-! ### Every step -/

/-- Every command keeps the invariant; clearing the keys afterwards touches operands only (R55). -/
theorem State.Inv.after_exec {i : Instr} {s t : State} (h : s.Inv) (hr : s.rst = false) (ht : exec i s = .next t) :
    t.Inv := by
  have hc : (s.complete (resultOf i s)).Inv :=
    h.complete hr fun _ hx => resultOf_legal (bufBytes_bounds h.params).1 hx
  obtain ⟨-, -, hrst, -⟩ := exec_frame ht
  rw [exec_eq] at ht
  injection ht with ht
  subst ht
  split
  · exact hc.set_operands (by simpa [*] using hrst) (complete_phase _ _) _ _ hc.hdrLenLegal hc.flagsMasked
      hc.inBufWf hc.inBufWithin
  · exact hc

/-- The engine's turn keeps the invariant, an illegal word included (R18, R113). -/
theorem State.Inv.after_engineTurn {s t : State} (h : s.Inv) (ht : engineTurn s = .next t) : t.Inv := by
  have hrst : ∀ {w}, s.fetch = some w → s.rst = false := fun hf => ((fetch_eq_some_iff s _).1 hf).1
  rcases engineTurn_cases s with ⟨-, h'⟩ | ⟨w, i, hf, -, h'⟩ | ⟨w, why, hf, -, h'⟩ <;> rw [h'] at ht
  · cases ht
    exact h
  · exact h.after_exec (hrst hf) ht
  · cases ht
    exact h.raiseError (hrst hf) _

/-- An accepted register write keeps the invariant: what it stores is masked, and operands change while IDLE
only (R36, R39, R93, R120). -/
theorem State.Inv.writeReg {s : State} (h : s.Inv) (hr : s.rst = false) {r : Reg} (v : Word)
    (hacc : s.isBusy = false ∨ writableWhileBusy (.reg r) = true) : (s.writeReg v r).Inv := by
  have hidle (hw : writableWhileBusy (.reg r) = false) : s.phase = .idle :=
    phase_eq_idle (hacc.resolve_right (by simp [hw]))
  cases r with
  | id | bufSize | errCode | errDetail | outLen | hdrLen => exact h
  | ctrl =>
    rcases writeCtrl_cases s v with ⟨-, hw⟩ | ⟨-, hw⟩ <;> rw [State.writeReg, hw]
    · exact .of_reset h.params s.rst s.readData s.script
    · exact h.set_control hr _ _ _ id
  | cmd => exact h.issue hr v
  | status => exact h.set_control hr _ _ _ fun hd => (Bool.and_eq_true_iff.1 hd).1
  | hdrFlags =>
    exact h.set_operands hr (hidle rfl) _ _ h.hdrLenLegal (flagsMask_idem _) h.inBufWf h.inBufWithin
  | _ => exact h.set_operands hr (hidle rfl) _ _ h.hdrLenLegal h.flagsMasked h.inBufWf h.inBufWithin

/-- A word of IN_BUF lies inside IN_BUF (R57, R81). -/
theorem inBuf_target_fits {n off k : Nat} (h : targetAt n off = .inBuf k) : k + 4 ≤ n := by
  unfold targetAt at h
  split at h
  · split at h <;> cases h
  · split at h
    · split at h
      · have := Target.inBuf.inj h
        omega
      · cases h
    · split at h
      · split at h <;> cases h
      · cases h

/-- A write sets BUSERR or WERR, or is accepted by its target (R85 to R93). -/
theorem State.Inv.memWrite {s : State} (h : s.Inv) (off size : Nat) (v : Word) : (s.memWrite off size v).Inv := by
  rcases memWrite_cases s off size v with ⟨-, hw⟩ | ⟨hr, -, hw⟩ | ⟨hr, -, -, -, hw⟩ | ⟨hr, -, hacc, hw⟩ <;> rw [hw]
  · exact h
  · exact h.set_control hr _ _ _ id
  · exact h.set_control hr _ _ _ id
  · cases ht : targetAt s.params.bufBytes off with
    | reg r => exact h.writeReg hr v (ht ▸ hacc)
    | inBuf k =>
      have hidle : s.phase = .idle := phase_eq_idle (hacc.resolve_right (by simp [ht, writableWhileBusy]))
      exact h.set_operands hr hidle _ _ h.hdrLenLegal h.flagsMasked (setBytes_wf k _ h.inBufWf)
        (setBytes_within _ h.inBufWithin (by rw [leBytes_length]; exact inBuf_target_fits ht))
    | outBuf | reserved => exact h

/-- A read changes BUSERR and the host's side of the bus alone (R87, R90). -/
theorem State.Inv.memRead {s : State} (h : s.Inv) (off size : Nat) : (s.memRead off size).Inv := by
  have heffect : (s.memReadEffect off size).Inv := by
    rcases memReadEffect_cases s off size with ⟨-, hr⟩ | ⟨hrst, -, hr⟩ <;> rw [hr]
    · exact h
    · exact h.set_control hrst _ _ _ id
  exact heffect.set_hostSide _ _

/-- A level of rst leaves the reset state or changes nothing (R361). -/
theorem State.Inv.driveRst {s : State} (h : s.Inv) (level : Bool) : (s.driveRst level).Inv := by
  unfold State.driveRst
  split
  · exact .of_reset h.params level s.readData s.script
  · exact h

/-- A read in the window keeps the invariant (R80). -/
theorem State.Inv.busRead {s t : State} (h : s.Inv) {a n : Nat} (ht : s.busRead a n = .next t) : t.Inv := by
  unfold State.busRead at ht
  split at ht <;> cases ht
  exact h.memRead _ n

/-- A write in the window keeps the invariant (R80). -/
theorem State.Inv.busWrite {s t : State} (h : s.Inv) {a n : Nat} {v : Word} (ht : s.busWrite a n v = .next t) :
    t.Inv := by
  unfold State.busWrite at ht
  split at ht <;> cases ht
  exact h.memWrite _ n v

/-- Settles O7: the event at the head is taken from a state that differs in the schedule alone. -/
theorem everyStepKeepsInv : Obligations.EveryStepKeepsInv := by
  intro s t h ht
  have htail (rest : List Event) : State.Inv { s with script := rest } := h.set_hostSide s.readData rest
  rcases step_cases s with ⟨-, h'⟩ | ⟨rest, -, h'⟩ | ⟨a, n, rest, -, h'⟩ | ⟨a, n, v, rest, -, h'⟩ | ⟨b, rest, -, h'⟩ <;>
    rw [h'] at ht
  · exact h.after_engineTurn ht
  · exact (htail rest).after_engineTurn ht
  · exact (htail rest).busRead ht
  · exact (htail rest).busWrite ht
  · cases ht
    exact (htail rest).driveRst b

/-- Settles O8: the reset state with rst released and nothing scheduled. -/
theorem invHoldsAtReset : Obligations.InvHoldsAtReset := by
  have hreset (p : Params) (hp : p.wf = true) : (State.resetWith p).Inv := .of_reset hp false 0 []
  exact ⟨hreset, hreset Config.params (by decide)⟩

/-! ### Which completions read or write the keys -/

/-- Register writes other than that of the keys keep the keys, and depend neither on them nor on the phase (R122). -/
theorem applyWrites_setKeys (s : State) (p : Phase) (k : Keys) {upd : List RegWrite} (h : .keysZero ∉ upd) :
    { s with phase := p, keys := k }.applyWrites upd = { s.applyWrites upd with phase := p, keys := k } := by
  induction upd generalizing s with
  | nil => rfl
  | cons w upd ih =>
    simp only [List.mem_cons, not_or] at h
    obtain ⟨hw, hupd⟩ := h
    have hone : { s with phase := p, keys := k }.applyWrite w = { s.applyWrite w with phase := p, keys := k } := by
      cases w with
      | keysZero => exact absurd rfl hw
      | _ => rfl
    exact (congrArg (State.applyWrites · upd) hone).trans (ih (s.applyWrite w) hupd)

/-- The result writes no key register (R121): it is an error, or its update list has no write of the keys. -/
def keepsKeys (r : CmdResult) : Prop := ∀ x, r = .ok x → .keysZero ∉ x.upd

/-- A completion that writes no key is the same from any phase and with any keys, but for the keys (R122). -/
theorem complete_setKeys (s : State) (p : Phase) (k : Keys) {r : CmdResult} (h : keepsKeys r) :
    { s with phase := p, keys := k }.complete r = { s.complete r with keys := k } := by
  cases r with
  | error e => rfl
  | ok x =>
    simp only [State.complete, State.completeOk, applyWrites_setKeys s p k (h x rfl)]
    cases x.out <;> rfl

/-- A completion that writes no key leaves the keys. -/
theorem complete_keys {s : State} {r : CmdResult} (h : keepsKeys r) : (s.complete r).keys = s.keys := by
  have hkeys := congrArg State.keys (complete_setKeys s s.phase s.keys h)
  exact hkeys

/-- ZEROIZE alone has a result that writes the keys (R305). -/
theorem resultOf_keepsKeys {i : Instr} (hi : i ≠ .zeroize) (s : State) : keepsKeys (resultOf i s) := by
  intro x hx
  cases i with
  | zeroize => exact absurd rfl hi
  | nop | buildPseudo | deriveCtr | deriveNonce =>
    cases hx
    exact List.not_mem_nil
  | encode =>
    obtain ⟨b, -, rfl⟩ := encodeResult_ok hx
    simp
  | packHdr =>
    obtain rfl := packHdrResult_ok hx
    simp
  | decode =>
    obtain ⟨b, p, -, -, rfl⟩ := decodeResult_ok hx
    simp [headerWrites]
  | unpackHdr =>
    obtain ⟨p, -, rfl⟩ := unpackHdrResult_ok hx
    simp [headerWrites]

/-- The running command's keys, in the registers and in the snapshot, replaced. -/
def State.runningWith (s : State) (S : Snapshot) (k : Keys) : State :=
  { s with phase := .busy { S with keys := k }, keys := k }

/-- No result but ENCODE's and DECODE's depends on the keys (R112, R373). -/
theorem resultOf_runningWith {i : Instr} (he : i ≠ .encode) (hd : i ≠ .decode) {s : State} {S : Snapshot}
    (hS : s.phase = .busy S) (k : Keys) : resultOf i (s.runningWith S k) = resultOf i s := by
  cases i with
  | encode => exact absurd rfl he
  | decode => exact absurd rfl hd
  | nop | zeroize => rfl
  | _ =>
    simp only [resultOf, operands_busy hS]
    rfl

/-- The keys that a command leaves (R55). -/
theorem exec_keys {i : Instr} {s t : State} (ht : exec i s = .next t) :
    t.keys = if i = .encode ∨ i = .decode ∨ i = .zeroize then noKeys else s.keys := by
  rw [exec_eq] at ht
  injection ht with ht
  subst ht
  by_cases hz : i = .zeroize
  · subst hz
    rfl
  · simp only [hz, or_false]
    split
    · rfl
    · exact complete_keys (resultOf_keepsKeys hz s)

/-- A command but ENCODE and DECODE leaves, with other keys, the same state but for the keys (R112, R373). -/
theorem exec_runningWith {i : Instr} (he : i ≠ .encode) (hd : i ≠ .decode) {s t : State} {S : Snapshot}
    (hS : s.phase = .busy S) (k : Keys) (ht : exec i s = .next t) :
    exec i (s.runningWith S k) = .next { t with keys := if i = .zeroize then noKeys else k } := by
  rw [exec_eq] at ht ⊢
  simp only [he, hd, or_self, if_false] at ht ⊢
  injection ht with ht
  subst ht
  rw [resultOf_runningWith he hd hS]
  by_cases hz : i = .zeroize
  · subst hz
    rfl
  · rw [if_neg hz]
    exact congrArg Host.Outcome.next (complete_setKeys s _ k (resultOf_keepsKeys hz s))

/-- A running illegal word leaves the error completion (R113, R306). -/
theorem engineTurn_illegal {s : State} {S : Snapshot} {why : IllegalCommand} (hr : s.rst = false)
    (hS : s.phase = .busy S) (hd : decode S.cmd = .error why) : engineTurn s = .next (s.completeIllegal why) := by
  have hf : s.fetch = some S.cmd := (fetch_eq_some_iff s S.cmd).2 ⟨hr, S, hS, rfl⟩
  simp only [engineTurn, hf, hd]

/-- Settles O41: a command by its result, and an illegal word by the error completion, which has no keys. -/
theorem onlyEncodeAndDecodeUseKeys : Obligations.OnlyEncodeAndDecodeUseKeys := by
  refine ⟨fun i s t S k hS ht => ⟨exec_keys ht, fun he hd => exec_runningWith he hd hS k ht⟩, ?_, fun _ => rfl⟩
  intro s t S k why hr hS hd ht
  rw [engineTurn_illegal hr hS hd] at ht
  cases ht
  exact ⟨rfl, engineTurn_illegal (s := s.runningWith S k) hr rfl hd⟩

end Sys2Proof.Machine

/-! SUPPORT. The address space (20_memory.md): the window, illegal accesses, accesses while BUSY, the words of the
buffers, and the bytes of IN_BUF that a command reads. -/

namespace Sys2Proof.Machine

open Sys2Proof.Claims

/-! ### The window -/

/-- A bus address in the window has its distance from BASE as its window offset (R80). -/
theorem windowOffset_base_add (s : State) {off : Nat} (h : off < Config.windowBytes) :
    s.windowOffset (s.params.base + off) = some off := by
  have hin : s.params.base ≤ s.params.base + off ∧ s.params.base + off < s.params.base + Config.windowBytes := by
    omega
  rw [State.windowOffset, if_pos hin, Nat.add_sub_cancel_left]

/-- A bus address before or past the window has no window offset (R80). -/
theorem windowOffset_outside (s : State) {addr : Nat}
    (h : addr < s.params.base ∨ s.params.base + Config.windowBytes ≤ addr) : s.windowOffset addr = none :=
  if_neg (by omega)

/-- A bus read in the window is the read at its window offset (R80, R86). -/
theorem busRead_of_offset {s : State} {addr off : Nat} (h : s.windowOffset addr = some off) (n : Nat) :
    s.busRead addr n = .next (s.memRead off n) := by
  simp only [State.busRead, h]

/-- A bus write in the window is the write at its window offset (R80, R86). -/
theorem busWrite_of_offset {s : State} {addr off : Nat} (h : s.windowOffset addr = some off) (n : Nat) (v : Word) :
    s.busWrite addr n v = .next (s.memWrite off n v) := by
  simp only [State.busWrite, h]

/-- A bus read outside the window is the model's fault (R80). -/
theorem busRead_outside {s : State} {addr : Nat} (h : s.windowOffset addr = none) (n : Nat) :
    s.busRead addr n = .fault .outsideWindow := by
  simp only [State.busRead, h]

/-- A bus write outside the window is the model's fault (R80). -/
theorem busWrite_outside {s : State} {addr : Nat} (h : s.windowOffset addr = none) (n : Nat) (v : Word) :
    s.busWrite addr n v = .fault .outsideWindow := by
  simp only [State.busWrite, h]

/-! ### The schedule -/

/-- A step with a read at the head of the schedule is that bus read (R92). -/
theorem step_read {s : State} {addr n : Nat} {rest : List Event} (h : s.script = .read addr n :: rest) :
    step s = { s with script := rest }.busRead addr n := by
  simp only [step, h]

/-- A step with a write at the head of the schedule is that bus write (R92). -/
theorem step_write {s : State} {addr n : Nat} {v : Word} {rest : List Event}
    (h : s.script = .write addr n v :: rest) : step s = { s with script := rest }.busWrite addr n v := by
  simp only [step, h]

/-- A step with a level of rst at the head of the schedule drives rst (R361). -/
theorem step_rst {s : State} {b : Bool} {rest : List Event} (h : s.script = .rst b :: rest) :
    step s = .next ({ s with script := rest }.driveRst b) := by
  simp only [step, h]

/-- While IDLE and while rst = 1 the engine has no word (R18, R361). -/
theorem fetch_eq_none {s : State} (h : s.phase = .idle ∨ s.rst = true) : s.fetch = none := by
  rcases h with h | h <;> simp [State.fetch, h]

/-- Settles O6: each event gives its own step, and each access its own side of the window's bounds. -/
theorem stepAppliesScheduledEvent : Obligations.StepAppliesScheduledEvent := by
  intro s rest
  refine ⟨fun off n hoff hs => ?_, fun off n v hoff hs => ?_, fun addr n hout hs => ?_, fun addr n v hout hs => ?_,
    fun b hs => step_rst hs, fun hs => step_eq_engineTurn (.inr ⟨rest, hs, rfl⟩),
    fun hs => step_eq_engineTurn (.inl ⟨hs, rfl⟩), fun hnone => ?_⟩
  · rw [step_read hs]
    exact busRead_of_offset (windowOffset_base_add { s with script := rest } hoff) n
  · rw [step_write hs]
    exact busWrite_of_offset (windowOffset_base_add { s with script := rest } hoff) n v
  · rw [step_read hs]
    exact busRead_outside (windowOffset_outside { s with script := rest } hout) n
  · rw [step_write hs]
    exact busWrite_outside (windowOffset_outside { s with script := rest } hout) n v
  · simp only [engineTurn, fetch_eq_none hnone]

/-- A level of rst changes neither the parameters nor the schedule (R361). -/
theorem driveRst_frame (s : State) (b : Bool) :
    (s.driveRst b).params = s.params ∧ (s.driveRst b).script = s.script := by
  unfold State.driveRst
  split <;> exact ⟨rfl, rfl⟩

/-- A read changes neither the parameters nor the schedule (R90). -/
theorem memRead_params_script (s : State) (off n : Nat) :
    (s.memRead off n).params = s.params ∧ (s.memRead off n).script = s.script := by
  have hparams := congrArg State.params (memRead_frame s off n)
  have hscript := congrArg State.script (memRead_frame s off n)
  exact ⟨hparams, hscript⟩

/-- A bus address between the ends of the window has a window offset (R80). -/
theorem exists_windowOffset {s : State} {addr : Nat}
    (h : (s.params.base ≤ addr && addr < s.params.base + Config.windowBytes) = true) :
    ∃ off, s.windowOffset addr = some off := by
  simp only [Bool.and_eq_true, decide_eq_true_eq] at h
  exact ⟨_, if_pos h⟩

/-- A schedule is in the window exactly when its head and the rest of it are. -/
theorem scriptInWindow_cons {s : State} {e : Event} {rest : List Event} (h : s.script = e :: rest) :
    s.scriptInWindow = true ↔
      e.inWindow s.params = true ∧ State.scriptInWindow { s with script := rest } = true := by
  simp only [State.scriptInWindow, h, List.all_cons, Bool.and_eq_true]

/-- Whether the schedule is in the window depends on the schedule and the parameters alone. -/
theorem scriptInWindow_congr {s t : State} (hparams : t.params = s.params) (hscript : t.script = s.script) :
    t.scriptInWindow = s.scriptInWindow := by
  rw [State.scriptInWindow, State.scriptInWindow, hparams, hscript]

/-- The engine's turn answers a next state and leaves the schedule in the window. -/
theorem engineTurn_scriptInWindow {s : State} (h : s.scriptInWindow = true) :
    ∃ t, engineTurn s = .next t ∧ t.scriptInWindow = true := by
  obtain ⟨t, ht⟩ := engineTurn_next s
  obtain ⟨hparams, hscript, -⟩ := engineTurn_frame ht
  exact ⟨t, ht, (scriptInWindow_congr hparams hscript).trans h⟩

/-- Settles O9: the head's access has a window offset, and no event changes the parameters or the schedule left. -/
theorem inWindowScheduleNeverStops : Obligations.InWindowScheduleNeverStops := by
  intro s h
  rcases step_cases s with ⟨-, hstep⟩ | ⟨rest, hs, hstep⟩ | ⟨a, n, rest, hs, hstep⟩ |
    ⟨a, n, v, rest, hs, hstep⟩ | ⟨b, rest, hs, hstep⟩ <;> rw [hstep]
  · exact engineTurn_scriptInWindow h
  · exact engineTurn_scriptInWindow ((scriptInWindow_cons hs).1 h).2
  · obtain ⟨hhead, hrest⟩ := (scriptInWindow_cons hs).1 h
    obtain ⟨off, hoff⟩ := exists_windowOffset (s := { s with script := rest }) hhead
    obtain ⟨hparams, hscript⟩ := memRead_params_script { s with script := rest } off n
    exact ⟨_, busRead_of_offset hoff n, (scriptInWindow_congr hparams hscript).trans hrest⟩
  · obtain ⟨hhead, hrest⟩ := (scriptInWindow_cons hs).1 h
    obtain ⟨off, hoff⟩ := exists_windowOffset (s := { s with script := rest }) hhead
    obtain ⟨hparams, hscript, -⟩ := memWrite_frame { s with script := rest } off n v
    exact ⟨_, busWrite_of_offset hoff n v, (scriptInWindow_congr hparams hscript).trans hrest⟩
  · obtain ⟨hparams, hscript⟩ := driveRst_frame { s with script := rest } b
    exact ⟨_, rfl, (scriptInWindow_congr hparams hscript).trans ((scriptInWindow_cons hs).1 h).2⟩

/-! ### Illegal accesses and reads -/

/-- The legal accesses are those of 4 bytes at a multiple of 4 (R87). -/
theorem legalAccess_iff (off n : Nat) : legalAccess off n = true ↔ n = 4 ∧ off % 4 = 0 := by
  simp [legalAccess]

/-- An illegal write sets BUSERR and changes nothing else (R87). -/
theorem memWrite_illegal {s : State} {off n : Nat} (v : Word) (hr : s.rst = false) (h : legalAccess off n = false) :
    s.memWrite off n v = { s with buserr := true } := by
  simp [State.memWrite, hr, h]

/-- An illegal read sets BUSERR and returns 0 (R87). -/
theorem memRead_illegal {s : State} {off n : Nat} (hr : s.rst = false) (h : legalAccess off n = false) :
    s.memRead off n = { s with buserr := true, readData := 0 } := by
  have heffect : s.memReadEffect off n = { s with buserr := true } := by simp [State.memReadEffect, hr, h]
  have hvalue : s.memReadValue off n = 0 := by simp [State.memReadValue, hr, h]
  rw [State.memRead, heffect, hvalue]

/-- Settles O17: an access that is not of 4 bytes at a multiple of 4 is illegal. -/
theorem illegalAccessOnlySetsBuserr : Obligations.IllegalAccessOnlySetsBuserr := by
  intro s off n v hr hbad
  have hillegal : legalAccess off n = false := by rwa [← Bool.not_eq_true, legalAccess_iff]
  exact ⟨memWrite_illegal v hr hillegal, memRead_illegal hr hillegal⟩

/-- A legal read puts the data word on the host's side of the bus and changes nothing else (R86, R90). -/
theorem memRead_legal (s : State) {off : Nat} (ha : off % 4 = 0) :
    s.memRead off 4 = { s with readData := s.memReadValue off 4 } := by
  have heffect : s.memReadEffect off 4 = s := by
    rcases memReadEffect_cases s off 4 with ⟨-, h⟩ | ⟨-, hillegal, -⟩
    · exact h
    · exact absurd ((legalAccess_iff off 4).2 ⟨rfl, ha⟩) (by simp [hillegal])
  rw [State.memRead, heffect]

/-- No target reads the data word on the host's side of the bus. -/
theorem readTarget_readData (s : State) (w : Word) (t : Target) :
    { s with readData := w }.readTarget t = s.readTarget t := by
  cases t with
  | reg r => cases r <;> rfl
  | inBuf k | outBuf k | reserved => rfl

/-- Settles O26: what a legal read leaves differs in the host's word alone, which no read looks at. -/
theorem legalReadHasNoSideEffect : Obligations.LegalReadHasNoSideEffect := by
  intro s off ha
  refine ⟨memRead_legal s ha, fun off' n => ?_⟩
  rw [memRead_legal s ha]
  exact memReadValue_congr n rfl rfl rfl fun _ => readTarget_readData s _ _

/-! ### Accesses while BUSY -/

/-- Only ID, BUF_SIZE, CTRL and STATUS are read while BUSY (R91). -/
theorem readableWhileBusy_iff (t : Target) : readableWhileBusy t = true ↔
    t = .reg .id ∨ t = .reg .bufSize ∨ t = .reg .ctrl ∨ t = .reg .status := by
  cases t with
  | reg r => cases r <;> simp [readableWhileBusy]
  | inBuf k | outBuf k | reserved => simp [readableWhileBusy]

/-- While BUSY a read of a target that is not readable returns 0 (R91). -/
theorem memReadValue_hidden {s : State} {off : Nat} (n : Nat) (hb : s.isBusy = true)
    (h : readableWhileBusy (targetAt s.params.bufBytes off) = false) : s.memReadValue off n = 0 := by
  simp [State.memReadValue, hb, h]

/-- While BUSY a legal write to a target that is not writable sets WERR and changes nothing else (R93). -/
theorem memWrite_refused {s : State} {off : Nat} (v : Word) (hr : s.rst = false) (hb : s.isBusy = true)
    (ha : off % 4 = 0) (h : writableWhileBusy (targetAt s.params.bufBytes off) = false) :
    s.memWrite off 4 v = { s with werr := true } := by
  have hlegal : legalAccess off 4 = true := (legalAccess_iff off 4).2 ⟨rfl, ha⟩
  simp [State.memWrite, hr, hlegal, hb, h]

/-- Settles O18: an offset that reaches a readable register is one of the four. -/
theorem busyReadsReturnZero : Obligations.BusyReadsReturnZero := by
  intro s off hr hb ha
  have hread {r : Reg} (h : readableWhileBusy (.reg r) = true) : s.memReadValue (regOffset r) 4 = s.readReg r :=
    memReadValue_reg hr (.inr h)
  refine ⟨fun hoff => ?_, hread (r := .id) rfl, hread (r := .ctrl) rfl, hread (r := .status) rfl, fun hwf =>
    (congrArg BitVec.toNat (hread (r := .bufSize) rfl)).trans (readReg_bufSize hwf)⟩
  have hhidden : readableWhileBusy (targetAt s.params.bufBytes off) = false := by
    rw [← Bool.not_eq_true, readableWhileBusy_iff]
    rintro (ht | ht | ht | ht) <;> exact hoff (by simp [eq_regOffset_of_targetAt ht, regOffset])
  rw [memRead_legal s ha, memReadValue_hidden 4 hb hhidden]

/-- Settles O19: an offset that reaches a writable register is that of CTRL or of STATUS. -/
theorem busyWritesOnlySetWerr : Obligations.BusyWritesOnlySetWerr := by
  intro s off v hr hb ha hctrl hstatus
  refine memWrite_refused v hr hb ha ?_
  rw [← Bool.not_eq_true, writableWhileBusy_iff]
  rintro (ht | ht)
  · exact hctrl (eq_regOffset_of_targetAt ht)
  · exact hstatus (eq_regOffset_of_targetAt ht)

/-! ### The words of the buffers -/

/-- Byte j of the LE bytes of a number. -/
theorem leBytes_getD {n j : Nat} (v : Nat) (h : j < n) : (leBytes n v).getD j 0 = byteOf v j := by
  rw [List.getD_eq_getElem?_getD, leBytes_getElem?, if_pos h]
  rfl

/-- A word of IN_BUF, written while IDLE, is stored as its LE bytes (R82, R85). -/
theorem memWrite_inBuf {s : State} {k : Nat} (v : Word) (hr : s.rst = false) (hp : s.phase = .idle)
    (hwf : s.params.wf = true) (ha : k % 4 = 0) (hk : k + 4 ≤ s.params.bufBytes) :
    s.memWrite (0x10000 + k) 4 v = { s with inBuf := Memory.setBytes s.inBuf k (leBytes 4 v.toNat) } := by
  rw [memWrite_idle v hr hp (by omega), targetAt_inBuf (bufBytes_bounds hwf).2 hk]
  rfl

/-- A word of IN_BUF is read while IDLE (R85). -/
theorem memReadValue_inBuf {s : State} {k : Nat} (hr : s.rst = false) (hp : s.phase = .idle)
    (hwf : s.params.wf = true) (ha : k % 4 = 0) (hk : k + 4 ≤ s.params.bufBytes) :
    s.memReadValue (0x10000 + k) 4 = Memory.getWord s.inBuf k := by
  rw [memReadValue_idle hr hp (by omega), targetAt_inBuf (bufBytes_bounds hwf).2 hk]
  rfl

/-- A word of OUT_BUF is read while IDLE (R85). -/
theorem memReadValue_outBuf {s : State} {k : Nat} (hr : s.rst = false) (hp : s.phase = .idle)
    (hwf : s.params.wf = true) (ha : k % 4 = 0) (hk : k + 4 ≤ s.params.bufBytes) :
    s.memReadValue (0x20000 + k) 4 = Memory.getWord s.outBuf k := by
  rw [memReadValue_idle hr hp (by omega), targetAt_outBuf (bufBytes_bounds hwf).2 hk]
  rfl

/-- Settles O20: the write stores the LE bytes of the word, and the read of the same word undoes LE. -/
theorem inBufWordWriteReadsBack : Obligations.InBufWordWriteReadsBack := by
  intro s k v hr hp hwf ha hk t
  have ht : t = { s with inBuf := Memory.setBytes s.inBuf k (leBytes 4 v.toNat) } :=
    memWrite_inBuf v hr hp hwf ha hk
  have hread : t.memReadValue (0x10000 + k) 4 = Memory.getWord t.inBuf k := by
    rw [ht]
    exact memReadValue_inBuf hr hp hwf ha hk
  rw [hread, ht]
  refine ⟨fun j => ?_, rfl, getWord_setBytes s.inBuf k v⟩
  rw [get_setBytes, leBytes_length]
  split
  next hj => exact leBytes_getD v.toNat (by omega)
  next => rfl

/-- The number of a word of a buffer (R82, R85). -/
theorem getWord_toNat (m : Memory) (k : Nat) : (Memory.getWord m k).toNat =
    (Memory.get m k).toNat + 256 * (Memory.get m (k + 1)).toNat + 65536 * (Memory.get m (k + 2)).toNat
      + 16777216 * (Memory.get m (k + 3)).toNat := by
  have hfits := uLE_lt [Memory.get m k, Memory.get m (k + 1), Memory.get m (k + 2), Memory.get m (k + 3)]
  rw [Memory.getWord, BitVec.toNat_ofNat]
  simp only [uLE, List.length_cons, List.length_nil] at hfits ⊢
  omega

/-- Settles O21: both buffers by the number of their words. -/
theorem bufferWordReadIsLittleEndian : Obligations.BufferWordReadIsLittleEndian := by
  intro s k hr hp hwf ha hk
  rw [memReadValue_inBuf hr hp hwf ha hk, memReadValue_outBuf hr hp hwf ha hk]
  exact ⟨getWord_toNat s.inBuf k, getWord_toNat s.outBuf k⟩

/-! ### The bytes of IN_BUF that a command reads -/

/-- IN_BUF with the bytes of m agrees with that of S as far as a command on buffers of n bytes reads it: below IN_LEN,
and nowhere when IN_LEN > n (R99). -/
def agreesBelowInLen (n : Nat) (S : Snapshot) (m : Memory) : Prop :=
  S.inLen.toNat ≤ n → ∀ k, k < S.inLen.toNat → Memory.get m k = Memory.get S.inBuf k

/-- Buffers that agree below IN_LEN give one input (R138). -/
theorem input_setInBuf {S : Snapshot} {m : Memory}
    (h : ∀ k, k < S.inLen.toNat → Memory.get m k = Memory.get S.inBuf k) :
    Snapshot.input { S with inBuf := m } = S.input :=
  List.map_congr_left fun k hk => h k (List.mem_range.1 hk)

/-- ENCODE's result: the input is read only when its length fits (R99, R282). -/
theorem encodeResult_setInBuf {n : Nat} {S : Snapshot} {m : Memory} (h : agreesBelowInLen n S m) :
    encodeResult n { S with inBuf := m } = encodeResult n S := by
  rcases Nat.lt_or_ge n S.inLen.toNat with hlong | hfits
  · simp only [encodeResult, hlong, if_true]
    rfl
  · simp only [encodeResult, input_setInBuf (h hfits)]
    rfl

/-- DECODE's result: the input is read only when its length fits (R99, R290). -/
theorem decodeResult_setInBuf {n : Nat} {S : Snapshot} {m : Memory} (h : agreesBelowInLen n S m) :
    decodeResult n { S with inBuf := m } = decodeResult n S := by
  rcases Nat.lt_or_ge n S.inLen.toNat with hlong | hfits
  · simp only [decodeResult, hlong, if_true]
  · simp only [decodeResult, input_setInBuf (h hfits)]
    rfl

/-- UNPACK_HDR's result: the input is read only when its length fits (R99, R165). -/
theorem unpackHdrResult_setInBuf {n : Nat} {S : Snapshot} {m : Memory} (h : agreesBelowInLen n S m) :
    unpackHdrResult n { S with inBuf := m } = unpackHdrResult n S := by
  rcases Nat.lt_or_ge n S.inLen.toNat with hlong | hfits
  · simp only [unpackHdrResult, hlong, if_true]
  · simp only [unpackHdrResult, input_setInBuf (h hfits)]
    rfl

/-- No result depends on the bytes of the snapshot's IN_BUF that a command does not read (R99). -/
theorem resultOf_setInBuf (i : Instr) {s : State} {S : Snapshot} {m : Memory} (hS : s.phase = .busy S)
    (h : agreesBelowInLen s.params.bufBytes S m) :
    resultOf i { s with phase := .busy { S with inBuf := m } } = resultOf i s := by
  have hops : s.operands = S := operands_busy hS
  cases i with
  | nop | zeroize => rfl
  | encode => exact (encodeResult_setInBuf h).trans (congrArg _ hops.symm)
  | decode => exact (decodeResult_setInBuf h).trans (congrArg _ hops.symm)
  | unpackHdr => exact (unpackHdrResult_setInBuf h).trans (congrArg _ hops.symm)
  | packHdr | buildPseudo | deriveCtr | deriveNonce =>
    simp only [resultOf, hops]
    rfl

/-- A completion does not depend on the phase it ends (R122). -/
theorem complete_setPhase (s : State) (p : Phase) (r : CmdResult) :
    { s with phase := p }.complete r = s.complete r := by
  cases r with
  | error e => rfl
  | ok x =>
    rw [complete_ok, complete_ok]
    rfl

/-- Settles O42: the result is the same, and the completion discards the snapshot. -/
theorem bytesPastInLenAreIgnored : Obligations.BytesPastInLenAreIgnored := by
  intro i s S m hS h
  rw [exec_eq, exec_eq, resultOf_setInBuf i hS h, complete_setPhase]

end Sys2Proof.Machine

/-! SUPPORT. The commands (30_encoding.md): their words, the header word, issue, what a running command's state can do,
what its result depends on, and that it ends. -/

namespace Sys2Proof.Machine

open Sys2Proof.Claims

/-! ### Command words -/

/-- OPC as a number (R110). -/
theorem opcodeField_toNat (w : Word) : (opcodeField w).toNat = w.toNat % 256 := by
  simp [opcodeField]

/-- RSV = 0 as a number (R110). -/
theorem reservedField_eq_zero_iff (w : Word) : reservedField w = 0 ↔ w.toNat / 256 = 0 := by
  have hlt := w.isLt
  rw [← BitVec.toNat_inj, reservedField, BitVec.extractLsb'_toNat, Nat.shiftRight_eq_div_pow]
  simp only [BitVec.ofNat_eq_ofNat, BitVec.toNat_ofNat]
  omega

/-- The opcodes are those of the nine command words (R111). -/
theorem mem_opcodes_iff (n : Nat) : n ∈ opcodes ↔ ∃ i, n = (encode i).toNat := by
  constructor
  · intro h
    simp only [opcodes, List.mem_cons, List.not_mem_nil, or_false] at h
    rcases h with rfl | rfl | rfl | rfl | rfl | rfl | rfl | rfl | rfl
    exacts [⟨.nop, rfl⟩, ⟨.encode, rfl⟩, ⟨.decode, rfl⟩, ⟨.packHdr, rfl⟩, ⟨.unpackHdr, rfl⟩, ⟨.buildPseudo, rfl⟩,
      ⟨.deriveCtr, rfl⟩, ⟨.deriveNonce, rfl⟩, ⟨.zeroize, rfl⟩]
  · rintro ⟨i, rfl⟩
    cases i <;> decide

/-- The opcode map has a command at its own opcode and nowhere else (R111). -/
theorem commandOfOpcode_eq_some_iff (opc : BitVec 8) (i : Instr) :
    commandOfOpcode opc = some i ↔ opc.toNat = (encode i).toNat := by
  constructor
  · intro h
    unfold commandOfOpcode at h
    split at h <;> cases h <;> assumption
  · intro h
    unfold commandOfOpcode
    rw [h]
    cases i <;> rfl

/-- The opcode map is defined on the opcodes and nowhere else (R111). -/
theorem commandOfOpcode_eq_none_iff (opc : BitVec 8) : commandOfOpcode opc = none ↔ opc.toNat ∉ opcodes := by
  simp only [Option.eq_none_iff_forall_ne_some, ne_eq, commandOfOpcode_eq_some_iff, mem_opcodes_iff, not_exists]

/-- A word with an OPC outside the map is illegal, whatever its RSV (R113). -/
theorem decode_of_opcode_not_mem {w : Word} (h : w.toNat % 256 ∉ opcodes) : decode w = .error .unknownOpcode := by
  have hnone : commandOfOpcode (opcodeField w) = none := by rwa [commandOfOpcode_eq_none_iff, opcodeField_toNat]
  simp only [decode, hnone]

/-- A word with a known OPC is that OPC's command when RSV = 0, and illegal otherwise (R113). -/
theorem decode_of_opcode {w : Word} {i : Instr} (h : w.toNat % 256 = (encode i).toNat) :
    decode w = if w.toNat / 256 = 0 then .ok i else .error .reservedBits := by
  have hsome : commandOfOpcode (opcodeField w) = some i := by rwa [commandOfOpcode_eq_some_iff, opcodeField_toNat]
  simp only [decode, hsome, reservedField_eq_zero_iff]

/-- A command's word decodes to the command (R111, R113). -/
theorem decode_encode (i : Instr) : decode (encode i) = .ok i := by
  cases i <;> rfl

/-- The word of a command is the only word that decodes to it (R110, R113). -/
theorem decode_eq_ok_iff (w : Word) (i : Instr) : decode w = .ok i ↔ w = encode i := by
  constructor
  · intro h
    by_cases hopc : w.toNat % 256 ∈ opcodes
    · obtain ⟨j, hj⟩ := (mem_opcodes_iff _).1 hopc
      rw [decode_of_opcode hj] at h
      split at h <;> cases h
      apply BitVec.eq_of_toNat_eq
      omega
    · rw [decode_of_opcode_not_mem hopc] at h
      cases h
  · rintro rfl
    exact decode_encode i

/-- Settles O1: the OPC test, the RSV test, and the one command of a legal word. -/
theorem decodeMapsEveryWord : Obligations.DecodeMapsEveryWord := by
  refine ⟨rfl, rfl, fun w => ⟨decode_of_opcode_not_mem, fun hopc hrsv => ?_, fun hopc hrsv => ?_⟩⟩ <;>
    obtain ⟨i, hi⟩ := (mem_opcodes_iff _).1 hopc
  · rw [decode_of_opcode hi, if_neg hrsv]
  · have hw : decode w = .ok i := by rw [decode_of_opcode hi, if_pos hrsv]
    refine ⟨i, ⟨hw, ((decode_eq_ok_iff w i).1 hw).symm⟩, fun j hj => ?_⟩
    exact Except.ok.inj (hj.1.symm.trans hw)

/-- Settles O3: the word of a command is the only word that decodes to it. -/
theorem decodeEncodeRoundTrip : Obligations.DecodeEncodeRoundTrip :=
  ⟨decode_encode, fun i w => (decode_eq_ok_iff w i).1⟩

/-- Settles O2: each word is the word of its command. -/
theorem opcodeMapWordsDecode : Obligations.OpcodeMapWordsDecode :=
  ⟨decode_encode .nop, decode_encode .encode, decode_encode .decode, decode_encode .packHdr,
    decode_encode .unpackHdr, decode_encode .buildPseudo, decode_encode .deriveCtr, decode_encode .deriveNonce,
    decode_encode .zeroize⟩

/-! ### The header word -/

/-- Two bit vectors side by side, as a number. -/
theorem toNat_append_eq {m n : Nat} (x : BitVec m) (y : BitVec n) :
    (x ++ y).toNat = x.toNat * 2 ^ n + y.toNat := by
  rw [BitVec.toNat_append, ← Nat.shiftLeft_add_eq_or_of_lt y.isLt, Nat.shiftLeft_eq]

/-- The bits of the flags mask 0x0F0F (R130). -/
theorem getLsbD_flagsMask {j : Nat} (hj : j < 16) :
    flagsMask.getLsbD j = (decide (j < 4) || decide (8 ≤ j ∧ j < 12)) := by
  revert j
  decide

/-- The header word is four fields of four bits: version, flag bits 11:8, encryption type, flag bits 3:0 (R130). -/
theorem headerWord_eq_append (ver enc : BitVec 4) (f : BitVec 16) :
    headerWord ver enc f = ver ++ f.extractLsb' 8 4 ++ enc ++ f.extractLsb' 0 4 := by
  apply BitVec.eq_of_getLsbD_eq
  intro j hj
  simp only [headerWord, BitVec.getLsbD_or, BitVec.getLsbD_and, BitVec.getLsbD_shiftLeft, BitVec.getLsbD_setWidth,
    getLsbD_flagsMask hj, BitVec.getLsbD_append, BitVec.getLsbD_extractLsb']
  interval_cases j <;> simp

/-- The header word as a number (R130). -/
theorem headerWord_toNat (ver enc : BitVec 4) (f : BitVec 16) :
    (headerWord ver enc f).toNat =
      ver.toNat * 4096 + f.toNat / 256 % 16 * 256 + enc.toNat * 16 + f.toNat % 16 := by
  simp only [headerWord_eq_append, toNat_append_eq, BitVec.extractLsb'_toNat, Nat.shiftRight_eq_div_pow]
  omega

/-- The flags of a word as a number: bits 11:8 and 3:0 (R130). -/
theorem and_flagsMask_toNat (f : BitVec 16) :
    (f &&& flagsMask).toNat = f.toNat / 256 % 16 * 256 + f.toNat % 16 := by
  have h := headerWord_toNat 0 0 f
  simpa [headerWord] using h

theorem wordVersion_toNat (w : BitVec 16) : (wordVersion w).toNat = w.toNat / 4096 := by
  have := w.isLt
  rw [wordVersion, BitVec.extractLsb'_toNat, Nat.shiftRight_eq_div_pow]
  omega

theorem wordEncType_toNat (w : BitVec 16) : (wordEncType w).toNat = w.toNat / 16 % 16 := by
  rw [wordEncType, BitVec.extractLsb'_toNat, Nat.shiftRight_eq_div_pow]

/-- Unpacking and packing a word gives it back (R130). -/
theorem headerWord_unpack (w : BitVec 16) : headerWord (wordVersion w) (wordEncType w) (wordFlags w) = w := by
  apply BitVec.eq_of_toNat_eq
  rw [headerWord_toNat, wordVersion_toNat, wordEncType_toNat, wordFlags, and_flagsMask_toNat]
  omega

/-- Packing and unpacking the fields gives them back, the flags masked (R130). -/
theorem unpack_headerWord (ver enc : BitVec 4) (f : BitVec 16) :
    wordVersion (headerWord ver enc f) = ver ∧ wordEncType (headerWord ver enc f) = enc ∧
    wordFlags (headerWord ver enc f) = f &&& flagsMask := by
  have hver := ver.isLt
  have henc := enc.isLt
  refine ⟨?_, ?_, ?_⟩ <;> apply BitVec.eq_of_toNat_eq
  · rw [wordVersion_toNat, headerWord_toNat]
    omega
  · rw [wordEncType_toNat, headerWord_toNat]
    omega
  · rw [wordFlags, and_flagsMask_toNat, and_flagsMask_toNat, headerWord_toNat]
    omega

/-- Settles O46: the fields are bit groups of the word, compared as numbers. -/
theorem headerWordRoundTrip : Obligations.HeaderWordRoundTrip := by
  refine ⟨fun w => ⟨wordVersion_toNat w, wordEncType_toNat w, rfl, headerWord_unpack w⟩, fun ver enc f =>
    ⟨?_, unpack_headerWord ver enc f⟩⟩
  have hflags : (f &&& 0x0F0F).toNat = f.toNat / 256 % 16 * 256 + f.toNat % 16 := and_flagsMask_toNat f
  rw [headerWord_toNat, hflags]
  omega

/-! ### Issue -/

/-- Settles O30: the write is the issue, and a running command hides every read but the four of R91. -/
theorem cmdWriteTakesSnapshot : Obligations.CmdWriteTakesSnapshot := by
  intro s w hr hp
  have hidle : s.isBusy = false := by simp [State.isBusy, hp]
  have hissue : s.memWrite 0x00C 4 w = s.issue w := memWrite_reg (r := .cmd) w hr (.inl hidle)
  rw [hissue]
  refine ⟨rfl, fun off n hoff => memReadValue_hidden n rfl ?_⟩
  rw [← Bool.not_eq_true, readableWhileBusy_iff]
  rintro (ht | ht | ht | ht) <;> exact hoff (by simp [eq_regOffset_of_targetAt ht, regOffset])

/-- No result depends on the command word in the snapshot (R121). -/
theorem resultOf_issue (i : Instr) {s : State} (hp : s.phase = .idle) (w : Word) :
    resultOf i (s.issue w) = resultOf i s := by
  cases i with
  | nop | zeroize => rfl
  | _ =>
    simp only [resultOf, operands_idle hp, operands_busy (issue_phase s w)]
    rfl

/-- A completion leaves nothing of the issue before it (R120, R122). -/
theorem complete_issue (s : State) (w : Word) (r : CmdResult) : (s.issue w).complete r = s.complete r := by
  cases r with
  | error e => rfl
  | ok x =>
    rw [complete_ok, complete_ok]
    rfl

/-- Settles O13: one result and one completion, with the issue or without it. -/
theorem idleMeaningIsIssueThenRun : Obligations.IdleMeaningIsIssueThenRun := by
  intro i s hp
  rw [exec_eq, exec_eq, resultOf_issue i hp, complete_issue]

/-! ### A running command's state -/

/-- A write while BUSY sets BUSERR or WERR, or it is the write of CTRL or of STATUS (R87, R93). -/
theorem memWrite_busy_cases {s : State} (hr : s.rst = false) (hb : s.isBusy = true) (off n : Nat) (v : Word) :
    s.memWrite off n v = { s with buserr := true } ∨ s.memWrite off n v = { s with werr := true } ∨
    (n = 4 ∧ off = 0x008 ∧ s.memWrite off n v = s.writeCtrl v) ∨
    (n = 4 ∧ off = 0x010 ∧ s.memWrite off n v = s.acknowledge v) := by
  rcases memWrite_cases s off n v with ⟨hr', -⟩ | ⟨-, -, h⟩ | ⟨-, -, -, -, h⟩ | ⟨-, hlegal, hacc, h⟩
  · exact absurd (hr.symm.trans hr') nofun
  · exact .inl h
  · exact .inr (.inl h)
  · have hn : n = 4 := ((legalAccess_iff off n).1 hlegal).1
    have hw := hacc.resolve_left (by simp [hb])
    rcases (writableWhileBusy_iff _).1 hw with ht | ht <;> rw [ht] at h
    · exact .inr (.inr (.inl ⟨hn, eq_regOffset_of_targetAt ht, h⟩))
    · exact .inr (.inr (.inr ⟨hn, eq_regOffset_of_targetAt ht, h⟩))

/-- No read clears BUSERR (R87). -/
theorem memRead_buserr_of_set {s : State} (h : s.buserr = true) (off n : Nat) : (s.memRead off n).buserr = true := by
  rcases memReadEffect_cases s off n with ⟨-, he⟩ | ⟨-, -, he⟩ <;> rw [State.memRead, he]
  exact h

/-- While rst stays 0, a level of rst changes nothing (R361). -/
theorem driveRst_false {s : State} (h : s.rst = false) : s.driveRst false = s := by
  simp [State.driveRst, h]

/-- What a write that is no soft reset changes while BUSY: CTRL at its offset, STATUS bits (R36, R39, R87, R93). -/
theorem memWrite_busy_frame {s : State} (hr : s.rst = false) (hb : s.isBusy = true) (off n : Nat) (v : Word)
    (hsoft : ¬ (n = 4 ∧ off = 0x008 ∧ v.getLsbD 1 = true)) :
    let t := s.memWrite off n v
    { t with ctrl := s.ctrl, done := s.done, werr := s.werr, buserr := s.buserr } = s ∧
    (off ≠ 0x008 → t.ctrl = s.ctrl) ∧
    (off ≠ 0x010 → t.done = s.done ∧ (s.werr = true → t.werr = true) ∧ (s.buserr = true → t.buserr = true)) := by
  intro t
  rcases memWrite_busy_cases hr hb off n v with h | h | ⟨hn, hoff, h⟩ | ⟨-, hoff, h⟩
  · rw [show t = _ from h]
    exact ⟨rfl, fun _ => rfl, fun _ => ⟨rfl, id, fun _ => rfl⟩⟩
  · rw [show t = _ from h]
    exact ⟨rfl, fun _ => rfl, fun _ => ⟨rfl, fun _ => rfl, id⟩⟩
  · rcases writeCtrl_cases s v with ⟨hbit, -⟩ | ⟨-, hw⟩
    · exact absurd ⟨hn, hoff, hbit⟩ hsoft
    · rw [show t = _ from h.trans hw]
      exact ⟨rfl, fun hne => absurd hoff hne, fun _ => ⟨rfl, id, id⟩⟩
  · rw [show t = _ from h]
    exact ⟨rfl, fun _ => rfl, fun hne => absurd hoff hne⟩

/-- Settles O11: the read, the write and rst by their cases; both resets leave the engine no word. -/
theorem busyStateChangesOnlyControl : Obligations.BusyStateChangesOnlyControl := by
  intro s S hr hS
  have hb : s.isBusy = true := (isBusy_iff s).2 ⟨S, hS⟩
  refine ⟨fun off n => ⟨memRead_frame s off n, fun h => memRead_buserr_of_set h off n⟩, memWrite_busy_frame hr hb,
    driveRst_false hr, fun v b t ht => ?_⟩
  have hreset : t = { State.resetWith s.params with rst := b, readData := s.readData, script := s.script } := by
    rcases ht with ⟨hbit, rfl, rfl⟩ | ⟨rfl, rfl⟩
    · exact (ctrlWriteResetsOrSetsEnables s v hr).1 hbit
    · rfl
  have hidle : t.phase = .idle := by rw [hreset]; rfl
  exact ⟨hreset, hidle, by simp only [engineTurn, fetch_eq_none (.inl hidle)]⟩

/-! ### What a result depends on -/

/-- A result depends on the operands and BUF_BYTES alone (R121). -/
theorem resultOf_congr (i : Instr) {s s' : State} (hops : s.operands = s'.operands)
    (hbuf : s.params.bufBytes = s'.params.bufBytes) : resultOf i s = resultOf i s' := by
  cases i <;> simp only [resultOf, hops, hbuf]

/-- Two runs, from s to t and from s' to t', write each register of R121's update list alike. -/
def registersAlike (s t s' t' : State) : Prop :=
  writtenAlike State.hdr s t s' t' ∧ writtenAlike State.hdrLen s t s' t' ∧ writtenAlike State.keys s t s' t' ∧
  writtenAlike State.inBuf s t s' t' ∧ writtenAlike State.inLen s t s' t'


/-- Runs that change none of these registers. -/
theorem registersAlike_unchanged (s s' : State) : registersAlike s s s' s' :=
  ⟨.inr ⟨rfl, rfl⟩, .inr ⟨rfl, rfl⟩, .inr ⟨rfl, rfl⟩, .inr ⟨rfl, rfl⟩, .inr ⟨rfl, rfl⟩⟩

/-- The update lists of the commands write each register alike from every state (R122). -/
theorem registersAlike_applyWrites {upd : List RegWrite}
    (h : upd = [] ∨ (∃ n, upd = [.hdrLen n]) ∨ (∃ p, upd = headerWrites p) ∨
      upd = [.keysZero, .inBufZero, .inLenZero, .hdrLen 0]) (s s' : State) :
    registersAlike s (s.applyWrites upd) s' (s'.applyWrites upd) := by
  rcases h with rfl | ⟨n, rfl⟩ | ⟨p, rfl⟩ | rfl
  · exact registersAlike_unchanged s s'
  · exact ⟨.inr ⟨rfl, rfl⟩, .inl rfl, .inr ⟨rfl, rfl⟩, .inr ⟨rfl, rfl⟩, .inr ⟨rfl, rfl⟩⟩
  · rw [applyWrites_headerWrites, applyWrites_headerWrites]
    exact ⟨.inl rfl, .inl rfl, .inr ⟨rfl, rfl⟩, .inr ⟨rfl, rfl⟩, .inr ⟨rfl, rfl⟩⟩
  · exact ⟨.inr ⟨rfl, rfl⟩, .inl rfl, .inl rfl, .inl rfl, .inl rfl⟩

/-- Two completions with one result record the same codes (R122). -/
theorem complete_codes (s s' : State) (r : CmdResult) :
    (s.complete r).errCode = (s'.complete r).errCode ∧ (s.complete r).errDetail = (s'.complete r).errDetail := by
  cases r <;> exact ⟨rfl, rfl⟩

/-- Two completions with one result that is not NOP's KEEP leave the same output (R122). -/
theorem complete_output (s s' : State) {r : CmdResult} (h : ∀ upd, r ≠ .ok ⟨.keep, upd⟩) :
    (s.complete r).outBuf = (s'.complete r).outBuf ∧ (s.complete r).outLen = (s'.complete r).outLen := by
  cases r with
  | error e => exact ⟨rfl, rfl⟩
  | ok x =>
    obtain ⟨out, upd⟩ := x
    cases out with
    | keep => exact absurd rfl (h upd)
    | bytes b => exact ⟨rfl, rfl⟩

/-- NOP alone keeps the output (R281). -/
theorem resultOf_ne_keep {i : Instr} (hi : i ≠ .nop) (s : State) (upd : List RegWrite) :
    resultOf i s ≠ .ok ⟨.keep, upd⟩ := by
  rcases resultOf_cases i s with ⟨e, h⟩ | ⟨hnop, -⟩ | ⟨b, upd', h, -⟩
  · rw [h]
    nofun
  · exact absurd hnop hi
  · rw [h]
    nofun

/-- Two completions with one command's result write each register alike: as its update list does, and not at all
after an error (R122). -/
theorem registersAlike_complete {i : Instr} {a : State} {r : CmdResult} (hr : resultOf i a = r) (s s' : State) :
    registersAlike s (s.complete r) s' (s'.complete r) := by
  rcases resultOf_cases i a with ⟨e, h⟩ | ⟨-, h⟩ | ⟨b, upd, h, hupd⟩ <;> obtain rfl := hr.symm.trans h
  · exact registersAlike_unchanged s s'
  · exact registersAlike_unchanged s s'
  · exact registersAlike_applyWrites hupd s s'

/-- Clearing the keys after both runs writes them alike (R55). -/
theorem registersAlike_clearKeys {s t s' t' : State} (h : registersAlike s t s' t') :
    registersAlike s t.clearKeys s' t'.clearKeys := by
  obtain ⟨hhdr, hlen, -, hbuf, hin⟩ := h
  exact ⟨hhdr, hlen, .inl rfl, hbuf, hin⟩

/-- Settles O12: both runs complete with one result. -/
theorem resultDependsOnSnapshotOnly : Obligations.ResultDependsOnSnapshotOnly := by
  intro i s s' t t' S hS hS' hbuf ht ht'
  have hops : s'.operands = s.operands := (operands_busy hS').trans (operands_busy hS).symm
  rw [exec_eq] at ht ht'
  rw [resultOf_congr i hops hbuf.symm] at ht'
  obtain ⟨hcode, hdetail⟩ := complete_codes s s' (resultOf i s)
  have hout (hi : i ≠ .nop) := complete_output s s' (resultOf_ne_keep hi s)
  have hregs := registersAlike_complete (i := i) (a := s) rfl s s'
  cases ht
  cases ht'
  split
  · exact ⟨hcode, hdetail, hout, registersAlike_clearKeys hregs⟩
  · exact ⟨hcode, hdetail, hout, hregs⟩

/-! ### Every command ends -/

/-- While rst = 1 no command runs (R361). -/
def State.idleUnderRst (s : State) : Prop := s.rst = true → s.phase = .idle

/-- No read lets a command run under rst: it changes neither rst nor the phase (R90). -/
theorem memRead_idleUnderRst {s : State} (h : s.idleUnderRst) (off n : Nat) : (s.memRead off n).idleUnderRst := by
  have hrst := congrArg State.rst (memRead_frame s off n)
  have hphase := congrArg State.phase (memRead_frame s off n)
  exact fun hr => hphase.trans (h (hrst.symm.trans hr))

/-- No write lets a command run under rst: it has no effect then (R361). -/
theorem memWrite_idleUnderRst {s : State} (h : s.idleUnderRst) (off n : Nat) (v : Word) :
    (s.memWrite off n v).idleUnderRst := by
  intro hr
  rw [(memWrite_frame s off n v).2.2] at hr
  have hnone : s.memWrite off n v = s := by simp [State.memWrite, hr]
  rw [hnone]
  exact h hr

/-- No level of rst lets a command run under rst: its rise resets the phase (R361). -/
theorem driveRst_idleUnderRst {s : State} (h : s.idleUnderRst) (b : Bool) : (s.driveRst b).idleUnderRst := by
  unfold State.driveRst
  split
  · exact fun _ => rfl
  · exact h

/-- The engine's turn leaves no command running (R122). -/
theorem engineTurn_phase_idle {s t : State} (h : s.idleUnderRst) (ht : engineTurn s = .next t) :
    t.phase = .idle := by
  obtain ⟨-, -, -, hidle⟩ := engineTurn_frame ht
  apply hidle
  cases hr : s.rst with
  | false => exact .inl rfl
  | true => exact .inr (h hr)

/-- A bus read that answers a state is the read at some window offset (R80). -/
theorem busRead_next {s t : State} {a n : Nat} (h : s.busRead a n = .next t) : ∃ off, t = s.memRead off n := by
  unfold State.busRead at h
  split at h <;> cases h
  exact ⟨_, rfl⟩

/-- A bus write that answers a state is the write at some window offset (R80). -/
theorem busWrite_next {s t : State} {a n : Nat} {v : Word} (h : s.busWrite a n v = .next t) :
    ∃ off, t = s.memWrite off n v := by
  unfold State.busWrite at h
  split at h <;> cases h
  exact ⟨_, rfl⟩

/-- A step takes the head of the schedule, and lets no command run under rst. -/
theorem step_script_idleUnderRst {s t : State} (ht : step s = .next t) (h : s.idleUnderRst) :
    t.script = s.script.tail ∧ t.idleUnderRst := by
  rcases step_cases s with ⟨hs, h'⟩ | ⟨rest, hs, h'⟩ | ⟨a, n, rest, hs, h'⟩ | ⟨a, n, v, rest, hs, h'⟩ |
    ⟨b, rest, hs, h'⟩ <;> rw [h'] at ht <;> rw [hs]
  · exact ⟨(engineTurn_frame ht).2.1.trans hs, fun _ => engineTurn_phase_idle h ht⟩
  · exact ⟨(engineTurn_frame ht).2.1, fun _ => engineTurn_phase_idle (s := { s with script := rest }) h ht⟩
  · obtain ⟨off, rfl⟩ := busRead_next ht
    exact ⟨(memRead_params_script _ off n).2, memRead_idleUnderRst (s := { s with script := rest }) h off n⟩
  · obtain ⟨off, rfl⟩ := busWrite_next ht
    exact ⟨(memWrite_frame _ off n v).2.1, memWrite_idleUnderRst (s := { s with script := rest }) h off n v⟩
  · cases ht
    exact ⟨(driveRst_frame _ b).2, driveRst_idleUnderRst (s := { s with script := rest }) h b⟩

/-- A run goes on from the state its first step answers. -/
theorem run_succ {s t : State} (ht : step s = .next t) (k : Nat) :
    Host.Core.run core (k + 1) s = Host.Core.run core k t := by
  have hstep : core.step s = .next t := ht
  simp only [Host.Core.run, hstep]

/-- Settles O10, by induction on the schedule: each event takes one step, and the last step is the engine's turn. -/
theorem everyIssuedCommandEnds : Obligations.EveryIssuedCommandEnds := by
  intro s hwindow hidle
  induction hlen : s.script.length generalizing s with
  | zero =>
    have hs : s.script = [] := List.length_eq_zero_iff.1 hlen
    obtain ⟨t, ht⟩ := engineTurn_next s
    have hstep : step s = .next t := (step_eq_engineTurn (.inl ⟨hs, rfl⟩)).trans ht
    exact ⟨t, run_succ hstep 0, engineTurn_phase_idle hidle ht, (engineTurn_frame ht).2.1.trans hs⟩
  | succ n ih =>
    obtain ⟨t, hstep, htwindow⟩ := inWindowScheduleNeverStops s hwindow
    obtain ⟨hscript, htidle⟩ := step_script_idleUnderRst hstep hidle
    obtain ⟨u, hrun, hu⟩ := ih t htwindow htidle (by rw [hscript, List.length_tail]; omega)
    exact ⟨u, (run_succ hstep (n + 1)).trans hrun, hu⟩

end Sys2Proof.Machine

/-! SUPPORT. The header codec (40_header_codec.md): a packed header parses back to itself, the codec's header as the
plain numbers of the statements, and the first failing check of the header commands. -/

namespace Sys2Proof.Machine

open Sys2Proof.Claims

/-! ### The fields of a packed header -/

/-- sourceNodeId on the wire (R154). -/
def MsgHeader.srcField (h : MsgHeader) : Bytes :=
  if flagSet h.flags sourceNodeIdPresent then leBytes 8 h.src.toNat else []

/-- destNodeId on the wire (R154). -/
def MsgHeader.dstField (h : MsgHeader) : Bytes :=
  if flagSet h.flags destNodeIdPresent then leBytes 8 h.dst.toNat else []

/-- keyId on the wire (R154). -/
def MsgHeader.keyIdField (h : MsgHeader) : Bytes := if h.enc = 0 then [] else leBytes 2 h.keyId.toNat

/-- A packed header is its five fields, one after the other (R154). -/
theorem packHeader_eq_fields (h : MsgHeader) :
    packHeader h = leBytes 2 (headerWord h.ver h.enc h.flags).toNat ++ leBytes 4 h.msgId.toNat
      ++ h.srcField ++ h.dstField ++ h.keyIdField := rfl

@[simp] theorem srcField_length (h : MsgHeader) : h.srcField.length = srcFieldLen h.flags := by
  unfold MsgHeader.srcField srcFieldLen
  split <;> simp

@[simp] theorem dstField_length (h : MsgHeader) : h.dstField.length = dstFieldLen h.flags := by
  unfold MsgHeader.dstField dstFieldLen
  split <;> simp

/-- A value laid in a message at offset i is what a field read there returns (R12). -/
theorem ofNat_uLE_slice {w n i : Nat} (hw : 256 ^ n = 2 ^ w) (v : BitVec w) (a c : Bytes) (ha : a.length = i) :
    BitVec.ofNat w (uLE (slice (a ++ leBytes n v.toNat ++ c) i (i + n))) = v := by
  have hslice := slice_append_middle a (leBytes n v.toNat) c
  rw [ha, leBytes_length] at hslice
  rw [hslice, uLE_leBytes, hw, Nat.mod_eq_of_lt v.isLt, BitVec.ofNat_toNat, BitVec.setWidth_eq]

section PackedFields

variable (h : MsgHeader) (r : Bytes)

/-- The header word of a packed header (R154, R161). -/
theorem headerWord_of_packHeader :
    BitVec.ofNat 16 (uLE (slice (packHeader h ++ r) 0 2)) = headerWord h.ver h.enc h.flags := by
  rw [packHeader_eq_fields]
  simpa only [List.append_assoc, List.nil_append] using
    ofNat_uLE_slice (n := 2) (i := 0) (by decide) (headerWord h.ver h.enc h.flags) []
      (leBytes 4 h.msgId.toNat ++ h.srcField ++ h.dstField ++ h.keyIdField ++ r) rfl

/-- The message id of a packed header (R154, R161). -/
theorem msgId_of_packHeader : BitVec.ofNat 32 (uLE (slice (packHeader h ++ r) 2 6)) = h.msgId := by
  rw [packHeader_eq_fields]
  simpa only [List.append_assoc] using
    ofNat_uLE_slice (n := 4) (by decide) h.msgId (leBytes 2 (headerWord h.ver h.enc h.flags).toNat)
      (h.srcField ++ h.dstField ++ h.keyIdField ++ r) (leBytes_length 2 _)

/-- The source node id of a packed header that carries one (R154, R161). -/
theorem src_of_packHeader (hs : flagSet h.flags sourceNodeIdPresent = true) :
    BitVec.ofNat 64 (uLE (slice (packHeader h ++ r) 6 14)) = h.src := by
  have hfield : h.srcField = leBytes 8 h.src.toNat := if_pos hs
  rw [packHeader_eq_fields, hfield]
  simpa only [List.append_assoc] using
    ofNat_uLE_slice (n := 8) (i := 6) (by decide) h.src
      (leBytes 2 (headerWord h.ver h.enc h.flags).toNat ++ leBytes 4 h.msgId.toNat)
      (h.dstField ++ h.keyIdField ++ r) (by simp)

/-- The destination node id of a packed header that carries one (R154, R161). -/
theorem dst_of_packHeader (hd : flagSet h.flags destNodeIdPresent = true) :
    BitVec.ofNat 64 (uLE (slice (packHeader h ++ r) (6 + srcFieldLen h.flags) (6 + srcFieldLen h.flags + 8)))
      = h.dst := by
  have hfield : h.dstField = leBytes 8 h.dst.toNat := if_pos hd
  rw [packHeader_eq_fields, hfield]
  simpa only [List.append_assoc] using
    ofNat_uLE_slice (n := 8) (i := 6 + srcFieldLen h.flags) (by decide) h.dst
      (leBytes 2 (headerWord h.ver h.enc h.flags).toNat ++ leBytes 4 h.msgId.toNat ++ h.srcField)
      (h.keyIdField ++ r) (by simp; omega)

/-- The key id of a packed header that carries one (R154, R161). -/
theorem keyId_of_packHeader (hk : h.enc ≠ 0) :
    BitVec.ofNat 16 (uLE (slice (packHeader h ++ r) (6 + srcFieldLen h.flags + dstFieldLen h.flags)
      (6 + srcFieldLen h.flags + dstFieldLen h.flags + 2))) = h.keyId := by
  have hfield : h.keyIdField = leBytes 2 h.keyId.toNat := if_neg hk
  rw [packHeader_eq_fields, hfield]
  simpa only [List.append_assoc] using
    ofNat_uLE_slice (n := 2) (i := 6 + srcFieldLen h.flags + dstFieldLen h.flags) (by decide) h.keyId
      (leBytes 2 (headerWord h.ver h.enc h.flags).toNat ++ leBytes 4 h.msgId.toNat ++ h.srcField ++ h.dstField)
      r (by simp; omega)

end PackedFields

/-! ### Parsing undoes packing -/

/-- The header that a snapshot's parse makes of the packed h: an absent node id is the snapshot's (R162). -/
def MsgHeader.receivedBy (h : MsgHeader) (S : Snapshot) : MsgHeader :=
  { h with
    src := if flagSet h.flags sourceNodeIdPresent then h.src else S.src
    dst := if flagSet h.flags destNodeIdPresent then h.dst else S.dst
    keyId := if h.enc = 0 then 0 else h.keyId }

/-- The fields of a packed header, parsed (R164). -/
theorem parseFields_packHeader (S : Snapshot) {h : MsgHeader} (hmask : h.flags &&& flagsMask = h.flags) (r : Bytes) :
    parseFields S (packHeader h ++ r) (headerWord h.ver h.enc h.flags) = h.receivedBy S := by
  obtain ⟨hver, henc, hflags⟩ := unpack_headerWord h.ver h.enc h.flags
  rw [hmask] at hflags
  simp only [parseFields, MsgHeader.receivedBy, hver, henc, hflags, msgId_of_packHeader, MsgHeader.mk.injEq,
    true_and]
  refine ⟨?_, ?_, ?_⟩ <;> split
  · exact src_of_packHeader h r ‹_›
  · rfl
  · exact dst_of_packHeader h r ‹_›
  · rfl
  · rfl
  · exact keyId_of_packHeader h r ‹_›

/-- A parse after its checks of the version and of the type (R161). -/
theorem parseHeader_of_codes {S : Snapshot} {m : Bytes} {w : BitVec 16} {enc : EncType} (hlen : 2 ≤ m.length)
    (hw : BitVec.ofNat 16 (uLE (slice m 0 2)) = w) (hver : versionDefined (wordVersion w) = true)
    (henc : wordEncType w = encCode enc) :
    parseHeader S m =
      if S.ctrl.strictFlags && flagSet (wordFlags w) undefFlags then .error .undefinedFlags
      else if m.length < headerLen (wordFlags w) (wordEncType w) then .error .shortHeader
      else .ok ⟨enc, parseFields S m w, headerLen (wordFlags w) (wordEncType w)⟩ := by
  have hlong : ¬ m.length < 2 := by omega
  have htype : encTypeOf (wordEncType w) = some enc := (encTypeOf_eq_some_iff _ _).2 henc
  simp only [parseHeader, hw, if_neg hlong, hver, htype, Bool.not_true, Bool.false_eq_true, if_false]

/-- The parse of a packed header with defined codes: a strict parser refuses undefined flag bits, and every other parse
answers the header and its length (R164, R152). -/
theorem parseHeader_packHeader (S : Snapshot) {h : MsgHeader} {enc : EncType} (r : Bytes)
    (hver : versionDefined h.ver = true) (henc : h.enc = encCode enc) (hmask : h.flags &&& flagsMask = h.flags) :
    parseHeader S (packHeader h ++ r) =
      if S.ctrl.strictFlags && flagSet h.flags undefFlags then .error .undefinedFlags
      else .ok ⟨enc, h.receivedBy S, (packHeader h).length⟩ := by
  obtain ⟨hwver, hwenc, hwflags⟩ := unpack_headerWord h.ver h.enc h.flags
  rw [hmask] at hwflags
  have hlength : (packHeader h ++ r).length = headerLen h.flags h.enc + r.length := by
    rw [List.length_append, packHeader_length]
  have htwo : 2 ≤ (packHeader h ++ r).length := by
    rw [hlength, headerLen]
    omega
  have hwhole : ¬ (packHeader h ++ r).length < headerLen h.flags h.enc := by omega
  rw [parseHeader_of_codes htwo (headerWord_of_packHeader h r) (hwver.symm ▸ hver) (hwenc.trans henc), hwenc, hwflags,
    if_neg hwhole, parseFields_packHeader S hmask, packHeader_length]

/-- Settles O47: the parse of the packed header, by whether the parser is strict about its flag bits. -/
theorem parseInvertsPack : Obligations.ParseInvertsPack := by
  intro S S' enc r hvalid
  obtain ⟨hver, henc, -⟩ := (validateHeader_ok_iff S enc).1 hvalid
  have hparse := parseHeader_packHeader S' (h := S.header) r hver henc (flagsMask_idem S.hdr.flags)
  constructor
  · rintro ⟨hstrict, hundef⟩
    rw [hparse]
    exact if_pos (by rw [hstrict]; exact hundef)
  · intro hlenient
    have hpass : ¬ (S'.ctrl.strictFlags && flagSet S.flags undefFlags) = true := by
      rcases hlenient with h | h <;> simp [h]
    exact ⟨_, hparse.trans (if_neg hpass), rfl, rfl, rfl, rfl, rfl, rfl, rfl, rfl, rfl⟩

/-! ### The header as plain numbers -/

/-- A message header as the plain numbers of the statements. -/
def MsgHeader.toHdr (h : MsgHeader) : Hdr :=
  ⟨h.ver.toNat, h.enc.toNat, h.flags.toNat, h.msgId.toNat, h.src.toNat, h.dst.toNat, h.keyId.toNat⟩

/-- The header of the header registers, as numbers (R138). -/
theorem regHdr_eq (S : Snapshot) : regHdr S = S.header.toHdr := by
  simp only [regHdr, MsgHeader.toHdr, Snapshot.header, Snapshot.flags, Snapshot.src, Snapshot.dst,
    and_flagsMask_toNat, toNat_append_eq]

/-- A flag is set when its bit is. -/
theorem flagSet_twoPow (f : BitVec 16) {i : Nat} (hi : i < 16) :
    flagSet f (BitVec.twoPow 16 i) = f.toNat.testBit i := by
  have hne : BitVec.twoPow 16 i ≠ 0#16 := fun h0 => by simpa [hi] using congrArg (BitVec.getLsbD · i) h0
  rw [BitVec.testBit_toNat, flagSet, BitVec.and_twoPow]
  cases f.getLsbD i <;> simp [hne]

/-- The undefined flag bits are the low four (R131). -/
theorem flagSet_undefFlags (f : BitVec 16) : flagSet f undefFlags = (f.toNat % 16 != 0) := by
  have hlow : (f &&& undefFlags).toNat = f.toNat % 16 := Nat.and_two_pow_sub_one_eq_mod f.toNat 4
  rw [flagSet, ← hlow, Bool.eq_iff_iff, bne_iff_ne, bne_iff_ne, ne_eq, ne_eq, ← BitVec.toNat_inj]
  rfl

section Numbers

variable (h : MsgHeader)

/-- DestNodeIdPresent as a bit of the number (R131). -/
theorem toHdr_hasDst : h.toHdr.hasDst = flagSet h.flags destNodeIdPresent :=
  (flagSet_twoPow h.flags (i := 8) (by decide)).symm

/-- SourceNodeIdPresent as a bit of the number (R131). -/
theorem toHdr_hasSrc : h.toHdr.hasSrc = flagSet h.flags sourceNodeIdPresent :=
  (flagSet_twoPow h.flags (i := 9) (by decide)).symm

/-- TunneledData as a bit of the number (R131). -/
theorem toHdr_tunneled : h.toHdr.tunneled = flagSet h.flags tunneledData :=
  (flagSet_twoPow h.flags (i := 10) (by decide)).symm

/-- MsgCounterSyncReq as a bit of the number (R131). -/
theorem toHdr_syncReq : h.toHdr.syncReq = flagSet h.flags msgCounterSyncReq :=
  (flagSet_twoPow h.flags (i := 11) (by decide)).symm

/-- The type code 0 as a number (R133). -/
theorem toHdr_enc_eq_zero_iff : h.toHdr.enc = 0 ↔ h.enc = 0 := BitVec.toNat_inj (y := 0)

/-- The header length of R134 on both sides. -/
theorem toHdr_len : h.toHdr.len = headerLen h.flags h.enc := by
  simp only [Hdr.len, headerLen, srcFieldLen, dstFieldLen, keyIdFieldLen, toHdr_hasSrc, toHdr_hasDst,
    toHdr_enc_eq_zero_iff]

/-- The header region of R134 is the packed header (R154). -/
theorem toHdr_bytes (hmask : h.flags &&& flagsMask = h.flags) : h.toHdr.bytes = packHeader h := by
  have hflags := and_flagsMask_toNat h.flags
  rw [hmask] at hflags
  have hword : h.ver.toNat * 4096 + h.enc.toNat * 16 + h.flags.toNat = (headerWord h.ver h.enc h.flags).toNat := by
    rw [headerWord_toNat]
    omega
  simp only [Hdr.bytes, packHeader, toHdr_hasSrc, toHdr_hasDst, toHdr_enc_eq_zero_iff, leBytes_eq_lowFirst,
    ← hword]
  rfl

/-- The header registers that hold a header (R165). -/
theorem toHdr_registers : h.toHdr.registers =
    ⟨h.ver, h.enc, h.flags, h.msgId, h.src.setWidth 32, h.src.extractLsb' 32 32, h.dst.setWidth 32,
      h.dst.extractLsb' 32 32, h.keyId⟩ := by
  have hlow (x : BitVec 64) : BitVec.ofNat 32 x.toNat = x.setWidth 32 := BitVec.ofNat_toNat 32 x
  have hhigh (x : BitVec 64) : BitVec.ofNat 32 (x.toNat / 2 ^ 32) = x.extractLsb' 32 32 := by
    rw [← Nat.shiftRight_eq_div_pow]
    rfl
  simp only [Hdr.registers, MsgHeader.toHdr, hlow, hhigh, BitVec.ofNat_toNat, BitVec.setWidth_eq]

end Numbers

/-! ### The header on the wire as plain numbers -/

/-- A field read from a message, as the number of its bytes (R161). -/
theorem toNat_ofNat_uLE_slice {w n : Nat} (hw : 256 ^ n = 2 ^ w) (m : Bytes) (i : Nat) :
    (BitVec.ofNat w (uLE (slice m i (i + n)))).toNat = wireField m i n := by
  have hslice : slice m i (i + n) = (m.drop i).take n := by rw [slice, List.drop_take, Nat.add_sub_cancel_left]
  have hlt : uLE ((m.drop i).take n) < 2 ^ w :=
    hw ▸ (uLE_lt _).trans_le (Nat.pow_le_pow_right (by decide) (List.length_take_le _ _))
  rw [hslice, BitVec.toNat_ofNat, Nat.mod_eq_of_lt hlt, wireField]

/-- The presence flags survive the unpacking of a header word (R130, R131). -/
theorem wordFlags_presence (w : BitVec 16) :
    flagSet (wordFlags w) sourceNodeIdPresent = w.toNat.testBit 9 ∧
    flagSet (wordFlags w) destNodeIdPresent = w.toNat.testBit 8 := by
  rw [← flagSet_twoPow w (i := 9) (by decide), ← flagSet_twoPow w (i := 8) (by decide)]
  simp only [flagSet, wordFlags, BitVec.and_assoc]
  exact ⟨rfl, rfl⟩

/-- The header at the start of a message is what ParseHeader reads there (R161, R162). -/
theorem wireHdr_eq (S : Snapshot) (m : Bytes) :
    wireHdr S m = (parseFields S m (BitVec.ofNat 16 (uLE (slice m 0 2)))).toHdr := by
  have hw : wireField m 0 2 = (BitVec.ofNat 16 (uLE (slice m 0 2))).toNat :=
    (toNat_ofNat_uLE_slice (n := 2) (by decide) m 0).symm
  simp only [wireHdr, hw, regHdr_eq]
  generalize BitVec.ofNat 16 (uLE (slice m 0 2)) = w
  obtain ⟨hsrc, hdst⟩ := wordFlags_presence w
  have hver : w.toNat / 4096 % 16 = (wordVersion w).toNat := by
    rw [wordVersion_toNat, Nat.mod_eq_of_lt (by omega)]
  have henc : (wordEncType w).toNat = 0 ↔ wordEncType w = 0 := BitVec.toNat_inj (y := 0)
  have hstart : (if w.toNat.testBit 9 then 14 else 6) = 6 + (if w.toNat.testBit 9 then 8 else 0) := by
    split <;> rfl
  simp only [MsgHeader.toHdr, parseFields, srcFieldLen, dstFieldLen, hsrc, hdst, hver, ← wordEncType_toNat, henc,
    hstart, Hdr.mk.injEq, true_and]
  refine ⟨(and_flagsMask_toNat w).symm, (toNat_ofNat_uLE_slice (n := 4) (by decide) m 2).symm, ?_, ?_, ?_⟩ <;> split
  · exact (toNat_ofNat_uLE_slice (n := 8) (by decide) m 6).symm
  · rfl
  · exact (toNat_ofNat_uLE_slice (by decide) m _).symm
  · rfl
  · rfl
  · exact (toNat_ofNat_uLE_slice (by decide) m _).symm

/-! ### The first failing check -/

/-- r reports the first failing check of the list by its detail, and is a success when none fails (R332). -/
def reportsFirst {α : Type} (checks : List (Bool × Nat)) : Except CmdError α → Prop
  | .ok _ => firstFailing checks = 0
  | .error e => firstFailing checks = (errorDetail e).toNat

/-- A list whose first check fails. -/
theorem reportsFirst_failed {α : Type} {b : Bool} {l : List (Bool × Nat)} {e : CmdError} (hb : b = true) :
    reportsFirst ((b, (errorDetail e).toNat) :: l) (.error e : Except CmdError α) := by
  simp [reportsFirst, firstFailing, hb]

/-- A list whose first check passes: what reports the rest reports the list. -/
theorem reportsFirst_passed {α : Type} {b : Bool} {d : Nat} {l : List (Bool × Nat)} {r : Except CmdError α}
    (hb : b = false) (hr : reportsFirst l r) : reportsFirst ((b, d) :: l) r := by
  have hrest : firstFailing ((b, d) :: l) = firstFailing l := by simp [firstFailing, hb]
  cases r <;> exact hrest.trans hr

/-- A check before the rest of a function is a check before the rest of the list. -/
theorem reportsFirst_check {α : Type} {c : Prop} [Decidable c] {b : Bool} {l : List (Bool × Nat)} {e : CmdError}
    {r : Except CmdError α} (hb : b = true ↔ c) (hr : reportsFirst l r) :
    reportsFirst ((b, (errorDetail e).toNat) :: l) (if c then .error e else r) := by
  split
  · exact reportsFirst_failed (hb.2 ‹_›)
  · exact reportsFirst_passed (Bool.eq_false_iff.2 fun h => ‹¬ c› (hb.1 h)) hr

/-- No detail of R321 is 0. -/
theorem errorDetail_ne_zero (e : CmdError) : (errorDetail e).toNat ≠ 0 := by
  cases e <;> decide

/-- A result with no failing check is a success. -/
theorem reportsFirst_ok {α : Type} {l : List (Bool × Nat)} {r : Except CmdError α} (h : reportsFirst l r)
    (hd : firstFailing l = 0) : ∃ x, r = .ok x := by
  cases r with
  | ok x => exact ⟨x, rfl⟩
  | error e => exact absurd (h.symm.trans hd) (errorDetail_ne_zero e)

/-- A result with a failing check is the error of its detail. -/
theorem reportsFirst_error {α : Type} {l : List (Bool × Nat)} {r : Except CmdError α} (h : reportsFirst l r)
    (hd : firstFailing l ≠ 0) : ∃ e, r = .error e ∧ firstFailing l = (errorDetail e).toNat := by
  cases r with
  | ok x => exact absurd h hd
  | error e => exact ⟨e, rfl, h⟩

/-- The error completion with an error is that with its detail (R122, R321). -/
theorem raiseError_eq_failed (s : State) (e : CmdError) : s.raiseError e = failed s (errorDetail e).toNat := by
  cases e <;> rfl

/-- The defined version codes as numbers (R132). -/
theorem versionDefined_eq (v : BitVec 4) : (v.toNat != 1 && v.toNat != 2) = !versionDefined v := by
  revert v
  decide

/-- The reserved type codes are those above 3 (R133). -/
theorem encTypeOf_eq_none_iff (c : BitVec 4) : encTypeOf c = none ↔ 3 < c.toNat := by
  revert c
  decide

/-- ValidateHeader reports the first failing check of R151. -/
theorem validateHeader_reportsFirst (S : Snapshot) : reportsFirst (headerChecks S) (validateHeader S) := by
  have hany : (S.src.toNat == 2 ^ 64 - 1) = true ↔ S.src = anyNodeId :=
    beq_iff_eq.trans (BitVec.toNat_inj (y := anyNodeId))
  have hequal : (S.src.toNat == S.dst.toNat) = true ↔ S.src = S.dst := beq_iff_eq.trans BitVec.toNat_inj
  have hv1 : (S.hdr.version.toNat == 1) = true ↔ S.hdr.version = 1 :=
    beq_iff_eq.trans (BitVec.toNat_inj (y := 1))
  unfold headerChecks validateHeader
  simp only [regHdr_eq, toHdr_tunneled, toHdr_syncReq]
  refine reportsFirst_check (e := .version) (by rw [← versionDefined_eq]; rfl) ?_
  split
  case h_1 hnone => exact reportsFirst_failed (e := .encType) (decide_eq_true ((encTypeOf_eq_none_iff _).1 hnone))
  case h_2 enc hsome =>
    refine reportsFirst_passed (decide_eq_false (mt (encTypeOf_eq_none_iff S.hdr.encType).2 (by simp [hsome]))) ?_
    refine reportsFirst_check (e := .undefinedFlags) (by rw [flagSet_undefFlags]; rfl) ?_
    refine reportsFirst_check (e := .anyNodeId) hany ?_
    refine reportsFirst_check (e := .equalNodeIds) hequal ?_
    refine reportsFirst_check (e := .tunneledSync) Iff.rfl ?_
    exact reportsFirst_check (e := .v1Tunneled) (Bool.and_eq_true_iff.trans (and_congr_left' hv1)) rfl

/-- The checks of ParseHeader on a message, in the order of R161. -/
def wireChecks (S : Snapshot) (m : Bytes) : List (Bool × Nat) :=
  let h := wireHdr S m
  [ (m.length < 2, 0x10), (h.ver != 1 && h.ver != 2, 0x01), (3 < h.enc, 0x02),
    (S.ctrl.strictFlags && h.flags % 16 != 0, 0x03), (m.length < h.len, 0x11) ]

/-- UNPACK_HDR checks IN_LEN, then the input (R165, R332). -/
theorem parseChecks_eq (n : Nat) (S : Snapshot) :
    parseChecks n S = (decide (n < S.inLen.toNat), 0x13) :: wireChecks S S.input := by
  simp only [wireChecks, input_length]
  rfl

/-- ParseHeader reports the first failing check of R161. -/
theorem parseHeader_reportsFirst (S : Snapshot) (m : Bytes) : reportsFirst (wireChecks S m) (parseHeader S m) := by
  unfold wireChecks parseHeader
  simp only [wireHdr_eq, toHdr_len]
  generalize BitVec.ofNat 16 (uLE (slice m 0 2)) = w
  refine reportsFirst_check (e := .noHeaderWord) decide_eq_true_iff ?_
  refine reportsFirst_check (e := .version) (by rw [← versionDefined_eq]; rfl) ?_
  split
  case h_1 hnone => exact reportsFirst_failed (e := .encType) (decide_eq_true ((encTypeOf_eq_none_iff _).1 hnone))
  case h_2 enc hsome =>
    refine reportsFirst_passed (decide_eq_false (mt (encTypeOf_eq_none_iff (wordEncType w)).2 (by simp [hsome]))) ?_
    refine reportsFirst_check (e := .undefinedFlags) (by rw [flagSet_undefFlags]; rfl) ?_
    exact reportsFirst_check (e := .shortHeader) decide_eq_true_iff rfl

/-! ### PACK_HDR and UNPACK_HDR -/

/-- A completion with output bytes stores them, beside the register writes and the marks of R122. -/
theorem succeedsWith_of_bytes {i : Instr} {s : State} {b : Bytes} {upd : List RegWrite}
    (h : exec i s = .next (s.complete (.ok ⟨.bytes b, upd⟩))) : SucceedsWith i s b (s.applyWrites upd) :=
  ⟨_, h, get_ofBytes b, ofBytes_wf b, rfl, rfl⟩

/-- A command that completes with a result reports the first failing check of the result's list (R122, R332). -/
theorem exec_eq_failed {i : Instr} {s : State} {r : CmdResult} {l : List (Bool × Nat)}
    (h : exec i s = .next (s.complete r)) (hr : reportsFirst l r) (hd : firstFailing l ≠ 0) :
    exec i s = .next (failed s (firstFailing l)) := by
  obtain ⟨e, rfl, hdetail⟩ := reportsFirst_error hr hd
  rw [h, hdetail, ← raiseError_eq_failed]
  rfl

/-- PACK_HDR reports what ValidateHeader reports (R160). -/
theorem packHdrResult_reportsFirst (S : Snapshot) : reportsFirst (headerChecks S) (packHdrResult S) := by
  have hvalid := validateHeader_reportsFirst S
  unfold packHdrResult
  split <;> rwa [‹validateHeader S = _›] at hvalid

/-- UNPACK_HDR reports IN_LEN too large, then what ParseHeader reports (R165). -/
theorem unpackHdrResult_reportsFirst (n : Nat) (S : Snapshot) :
    reportsFirst (parseChecks n S) (unpackHdrResult n S) := by
  have hparse := parseHeader_reportsFirst S S.input
  rw [parseChecks_eq]
  unfold unpackHdrResult
  refine reportsFirst_check (e := .inputTooLong) decide_eq_true_iff ?_
  split <;> rwa [‹parseHeader S S.input = _›] at hparse

/-- Settles O36: a success is the packed header of the registers, whose numbers are those of the statement. -/
theorem packHdrValidatesAndPacks : Obligations.PackHdrValidatesAndPacks := by
  refine ⟨decode_encode .packHdr, fun s S hS => ?_⟩
  have hexec : exec .packHdr s = .next (s.complete (packHdrResult S)) := by
    rw [← operands_busy hS]
    rfl
  have hreport := packHdrResult_reportsFirst S
  refine ⟨fun hd => ?_, exec_eq_failed hexec hreport⟩
  obtain ⟨x, hx⟩ := reportsFirst_ok hreport hd
  obtain rfl := packHdrResult_ok hx
  rw [hx] at hexec
  rw [regHdr_eq, toHdr_bytes _ (flagsMask_idem S.hdr.flags), toHdr_len]
  exact succeedsWith_of_bytes hexec

/-- A parsed header is the one on the wire: its numbers, its length, and its flags within the mask (R161). -/
theorem parseHeader_eq_wireHdr {S : Snapshot} {m : Bytes} {p : Parsed} (hp : parseHeader S m = .ok p) :
    wireHdr S m = p.hdr.toHdr ∧ p.len = (wireHdr S m).len ∧ p.hdr.flags &&& flagsMask = p.hdr.flags := by
  obtain ⟨-, -, -, -, hlen, -, hhdr⟩ := (parseHeader_ok_iff S m p).1 hp
  rw [wireHdr_eq, toHdr_len, hhdr]
  exact ⟨rfl, hlen, flagsMask_idem _⟩

/-- Settles O37: a success loads the header that ParseHeader read, whose numbers are those of the wire. -/
theorem unpackHdrParsesAndLoads : Obligations.UnpackHdrParsesAndLoads := by
  refine ⟨decode_encode .unpackHdr, fun s S hS => ?_⟩
  have hexec : exec .unpackHdr s = .next (s.complete (unpackHdrResult s.params.bufBytes S)) := by
    rw [← operands_busy hS]
    rfl
  have hreport := unpackHdrResult_reportsFirst s.params.bufBytes S
  refine ⟨fun hd => ?_, exec_eq_failed hexec hreport⟩
  obtain ⟨x, hx⟩ := reportsFirst_ok hreport hd
  obtain ⟨p, hp, rfl⟩ := unpackHdrResult_ok hx
  obtain ⟨hwire, hlen, hmask⟩ := parseHeader_eq_wireHdr hp
  have hloads := succeedsWith_of_bytes (hexec.trans (by rw [hx]))
  rw [applyWrites_headerWrites, hmask, ← toHdr_registers, ← hwire, hlen] at hloads
  exact hloads

end Sys2Proof.Machine

/-! SUPPORT. The pseudo-header (41_pseudo_header.md): the masked header word and the pseudo-header as plain numbers,
what sealing and opening take from a header, and the one tag that opens a region. -/

namespace Sys2Proof.Machine

open Sys2Proof.Claims

/-! ### The pseudo-header -/

/-- The masked header word keeps the version, TunneledData, the type and flag bits 3:0, and no other bit (R182). -/
theorem maskedHeaderWord_headerWord (ver enc : BitVec 4) (f : BitVec 16) :
    maskedHeaderWord (headerWord ver enc f) =
      ver ++ (f.extractLsb' 8 4 &&& 4#4) ++ enc ++ f.extractLsb' 0 4 := by
  have hmask : ~~~(destNodeIdPresent ||| sourceNodeIdPresent ||| msgCounterSyncReq) = 0xF4FF#16 := rfl
  apply BitVec.eq_of_getLsbD_eq
  intro j hj
  simp only [maskedHeaderWord, headerWord_eq_append, hmask, BitVec.getLsbD_and, BitVec.getLsbD_append]
  interval_cases j <;> simp

/-- TunneledData among the flag bits 11:8 (R131). -/
theorem tunneledBit_toNat (f : BitVec 16) :
    (f.extractLsb' 8 4 &&& 4#4).toNat = if flagSet f tunneledData then 4 else 0 := by
  have hbit : flagSet f tunneledData = (f.extractLsb' 8 4).getLsbD 2 := by
    rw [BitVec.getLsbD_extractLsb', ← BitVec.testBit_toNat]
    exact flagSet_twoPow f (i := 10) (by decide)
  have hand : f.extractLsb' 8 4 &&& 4#4 = if (f.extractLsb' 8 4).getLsbD 2 then 4#4 else 0#4 :=
    BitVec.and_twoPow (f.extractLsb' 8 4) 2
  rw [hand, hbit]
  split <;> rfl

/-- The masked header word as a number (R182). -/
theorem maskedHeaderWord_toNat (ver enc : BitVec 4) (f : BitVec 16) :
    (maskedHeaderWord (headerWord ver enc f)).toNat =
      ver.toNat * 4096 + (if flagSet f tunneledData then 1024 else 0) + enc.toNat * 16 + f.toNat % 16 := by
  rw [maskedHeaderWord_headerWord]
  simp only [toNat_append_eq, tunneledBit_toNat, BitVec.extractLsb'_toNat, Nat.shiftRight_zero]
  split <;> omega

/-- The legacy variant by the numbers of its codes (R181). -/
theorem legacyPseudoHeaderVariant_iff (h : MsgHeader) :
    legacyPseudoHeaderVariant h = true ↔ h.toHdr.ver = 1 ∧ h.toHdr.enc = 1 := by
  simp only [legacyPseudoHeaderVariant, Bool.and_eq_true, beq_iff_eq, MsgHeader.toHdr, ← BitVec.toNat_inj]
  rfl

/-- The pseudo-header in plain numbers is the model's (R180). -/
theorem toHdr_pseudo (h : MsgHeader) : h.toHdr.pseudo = pseudoHeader h := by
  simp only [Hdr.pseudo, pseudoHeader, ← legacyPseudoHeaderVariant_iff, toHdr_tunneled, maskedHeaderWord_toNat,
    leBytes_eq_lowFirst]
  rfl

/-- Settles O35: the result is the pseudo-header of the registers, with no register write. -/
theorem buildPseudoWritesPseudoHeader : Obligations.BuildPseudoWritesPseudoHeader := by
  refine ⟨decode_encode .buildPseudo, fun s S hS => ?_⟩
  have hexec : exec .buildPseudo s = .next (s.complete (buildPseudoResult S)) := by
    rw [← operands_busy hS]
    rfl
  simp only [regHdr_eq, toHdr_pseudo, ← legacyPseudoHeaderVariant_iff]
  exact ⟨succeedsWith_of_bytes hexec, pseudoHeader_length S.header⟩

/-! ### What sealing and opening take from a header -/

/-- A header enters sealing and opening by its pseudo-header, its counter block and its nonce (R230, R231, R260,
R261). -/
theorem transforms_congr {h h' : MsgHeader} (hpseudo : pseudoHeader h' = pseudoHeader h)
    (hctr : ctrInit h' = ctrInit h) (hnonce : eaxNonce h' = eaxNonce h) (enc : EncType) (S : Snapshot) (x : Bytes) :
    sealRegion enc h' S x = sealRegion enc h S x ∧ openRegion enc h' S x = openRegion enc h S x := by
  cases enc with
  | none => exact ⟨rfl, rfl⟩
  | aes128CtrSha1 => simp only [sealRegion, openRegion, sealCtrSha1, openCtrSha1, hpseudo, hctr, and_self]
  | aes128Eax64 | aes128Eax128 => simp only [sealRegion, openRegion, sealEax, openEax, hpseudo, hnonce, and_self]

/-- MsgCounterSyncReq does not enter the masked header word (R182). -/
theorem maskedHeaderWord_xor_syncReq (ver enc : BitVec 4) (f : BitVec 16) :
    maskedHeaderWord (headerWord ver enc (f ^^^ msgCounterSyncReq)) = maskedHeaderWord (headerWord ver enc f) := by
  have hhigh : msgCounterSyncReq.extractLsb' 8 4 = 8#4 := rfl
  have hlow : msgCounterSyncReq.extractLsb' 0 4 = 0#4 := rfl
  have htunneled : ∀ g : BitVec 4, (g ^^^ 8#4) &&& 4#4 = g &&& 4#4 := by decide
  simp only [maskedHeaderWord_headerWord, BitVec.extractLsb'_xor, hhigh, hlow, htunneled, BitVec.xor_zero]

/-- Settles O54: the counter and the nonce read the source and the message id, and the pseudo-header reads the flags
through the masked header word alone. -/
theorem keyIdAndSyncReqAreUncovered : Obligations.KeyIdAndSyncReqAreUncovered := by
  intro enc h S x k h'
  have hpseudo : pseudoHeader h' = pseudoHeader h := by
    simp only [pseudoHeader, h', maskedHeaderWord_xor_syncReq]
    rfl
  exact transforms_congr hpseudo rfl rfl enc S x

/-! ### The comparison of tags -/

/-- An or of bytes is 0 when every byte is. -/
theorem foldl_or_eq_zero_iff (l : Bytes) (a : Byte) : l.foldl (· ||| ·) a = 0 ↔ a = 0 ∧ ∀ b ∈ l, b = 0 := by
  induction l generalizing a with
  | nil => simp
  | cons b l ih => rw [List.foldl_cons, ih, List.forall_mem_cons, ← and_assoc]; simp

/-- Strings of one length are equal when no byte of their exclusive or is set. -/
theorem xorBytes_all_zero_iff {a b : Bytes} (h : a.length = b.length) : (∀ x ∈ xorBytes a b, x = 0) ↔ a = b := by
  induction a generalizing b with
  | nil => simp [xorBytes, List.length_eq_zero_iff.1 h.symm]
  | cons x a ih =>
    cases b with
    | nil => cases h
    | cons y b =>
      have htail := ih (Nat.succ.inj h)
      simp only [xorBytes] at htail ⊢
      rw [List.zipWith_cons_cons, List.forall_mem_cons, htail, List.cons.injEq, BitVec.ofNat_eq_ofNat,
        BitVec.xor_eq_zero_iff]

/-- The comparison that examines every byte is equality on strings of one length (R227). -/
theorem ctEq_iff {a b : Bytes} (h : a.length = b.length) : ctEq a b = true ↔ a = b := by
  rw [ctEq, beq_iff_eq, foldl_or_eq_zero_iff, xorBytes_all_zero_iff h]
  simp

/-! ### The one tag that opens a region -/

/-- A string split n bytes before its end: the part before its last n bytes, and these (R231, R261). -/
theorem slice_body_tag {n : Nat} (body : Bytes) {tag : Bytes} (h : tag.length = n) :
    slice (body ++ tag) 0 ((body ++ tag).length - n) = body ∧
    slice (body ++ tag) ((body ++ tag).length - n) (body ++ tag).length = tag := by
  have hlen : (body ++ tag).length - n = body.length := by rw [List.length_append]; omega
  rw [hlen]
  exact ⟨slice_append_left body tag, by simpa using slice_append_middle body tag []⟩

/-- The n bytes of keystream that counter mode lays over n bytes (R215). -/
def ctrMask (key c0 : Bytes) (n : Nat) : Bytes := trunc (keystream key c0 (blockCount n)) n

@[simp] theorem ctrMask_length (key c0 : Bytes) (n : Nat) : (ctrMask key c0 n).length = n := by
  have := le_blockCount n
  simp [ctrMask, keystream_length]
  omega

/-- Counter mode is the exclusive or with that keystream (R215). -/
theorem aes128Ctr_eq_xorBytes (key c0 x : Bytes) : aes128Ctr key c0 x = xorBytes x (ctrMask key c0 x.length) := rfl

/-- In counter mode the bytes of a first part do not depend on what follows it, and what follows meets one part of the
keystream (R215). -/
theorem aes128Ctr_append (key c0 x : Bytes) (n : Nat) :
    ∃ p mask : Bytes, mask.length = n ∧
      ∀ y : Bytes, y.length = n → aes128Ctr key c0 (x ++ y) = p ++ xorBytes y mask := by
  refine ⟨xorBytes x ((ctrMask key c0 (x.length + n)).take x.length),
    (ctrMask key c0 (x.length + n)).drop x.length, by simp, fun y hy => ?_⟩
  rw [aes128Ctr_eq_xorBytes, List.length_append, hy]
  conv_lhs => rw [← List.take_append_drop x.length (ctrMask key c0 (x.length + n))]
  exact List.zipWith_append (by simp)

/-- Exclusive or with a string of the same length is undone by itself, on either side of an equation. -/
theorem eq_xorBytes_comm {a b k : Bytes} (ha : a.length = k.length) (hb : b.length = k.length) :
    a = xorBytes b k ↔ b = xorBytes a k := by
  constructor
  · rintro rfl
    exact (xorBytes_cancel b k hb.le).symm
  · rintro rfl
    exact (xorBytes_cancel a k ha.le).symm

/-- CTR+SHA1 opens a body with one encrypted tag and refuses it with every other (R231). -/
theorem openCtrSha1_append (h : MsgHeader) (dk ik body : Bytes) :
    ∃ good payload, ∀ tag : Bytes, tag.length = 20 →
      openCtrSha1 h dk ik (body ++ tag) = if tag = good then .ok payload else .error .integrity := by
  obtain ⟨payload, mask, hmask, hctr⟩ := aes128Ctr_append dk (ctrInit h) body 20
  have hmac := hmacSha1_length ik (pseudoHeader h ++ payload)
  refine ⟨xorBytes (hmacSha1 ik (pseudoHeader h ++ payload)) mask, payload, fun tag htag => ?_⟩
  have hlen : (xorBytes tag mask).length = 20 := by rw [xorBytes_length, htag, hmask, Nat.min_self]
  obtain ⟨hp, ht⟩ := slice_body_tag payload hlen
  simp only [openCtrSha1, hctr tag htag, hp, ht, ctEq_iff (hmac.trans hlen.symm),
    eq_xorBytes_comm (hmac.trans hmask.symm) (htag.trans hmask.symm)]

/-- EAX decryption is decided by one tag of each length (R255). -/
theorem eaxDec_eq (key nonce aad c : Bytes) {tag : Bytes} (h : tag.length ≤ 16) :
    eaxDec key nonce aad c tag =
      if tag = trunc (eaxTag key nonce aad c) tag.length then some (aes128Ctr key (omac key 0 nonce) c) else none := by
  have hlen : (trunc (eaxTag key nonce aad c) tag.length).length = tag.length := by simp [h]
  simp only [eaxDec, ctEq_iff hlen, eq_comm]

/-- EAX opens a body with one tag and refuses it with every other (R261). -/
theorem openEax_append (h : MsgHeader) (dk body : Bytes) {tl : Nat} (htl : tl ≤ 16) :
    ∃ good payload, ∀ tag : Bytes, tag.length = tl →
      openEax h dk (body ++ tag) tl = if tag = good then .ok payload else .error .authentication := by
  refine ⟨trunc (eaxTag dk (eaxNonce h) (pseudoHeader h) body) tl, aes128Ctr dk (omac dk 0 (eaxNonce h)) body,
    fun tag htag => ?_⟩
  obtain ⟨hc, ht⟩ := slice_body_tag body htag
  simp only [openEax, hc, ht, eaxDec_eq _ _ _ _ (htag.le.trans htl), htag]
  split_ifs <;> rfl

/-- With each encrypted type, one tag opens a body and every other tag of its length is refused (R231, R261). -/
theorem openRegion_append {enc : EncType} (henc : enc ≠ .none) (h : MsgHeader) (S : Snapshot) (body : Bytes) :
    ∃ good payload, ∀ tag : Bytes, tag.length = tagLen enc →
      openRegion enc h S (body ++ tag) =
        if tag = good then .ok payload
        else .error (if enc = .aes128CtrSha1 then .integrity else .authentication) := by
  cases enc with
  | none => exact absurd rfl henc
  | aes128CtrSha1 => exact openCtrSha1_append h S.dataKey S.intKey body
  | aes128Eax64 => exact openEax_append h S.dataKey body (by decide)
  | aes128Eax128 => exact openEax_append h S.dataKey body (by decide)

/-- Settles O53: the tag of a region that opens is the one tag that does. -/
theorem changedTagAlwaysFails : Obligations.ChangedTagAlwaysFails := by
  intro enc h S body tag tag' payload henc htag htag' hne hopen
  obtain ⟨good, payload', hone⟩ := openRegion_append henc h S body
  have hgood : tag = good := by
    by_contra hbad
    rw [hone tag htag, if_neg hbad] at hopen
    cases hopen
  rw [hone tag' htag', if_neg (hgood ▸ hne)]

end Sys2Proof.Machine

/-! SUPPORT. The nonce and counter derivation (42_nonce_counter.md): the counter block and the nonce as plain numbers,
what the two commands write, and what they read of a snapshot. -/

namespace Sys2Proof.Machine

open Sys2Proof.Claims

/-! ### The counter block and the nonce -/

/-- The BE bytes of a number are its bytes, most significant first. -/
theorem beBytes_eq_highFirst (n v : Nat) : beBytes n v = highFirst n v := by
  rw [beBytes, leBytes_eq_lowFirst]
  apply List.ext_getElem
  · simp [lowFirst, highFirst]
  · intro j _ _
    simp [lowFirst, highFirst]

/-- The counter block in plain numbers is the model's (R190). -/
theorem toHdr_ctr (h : MsgHeader) : h.toHdr.ctr = ctrInit h := by
  simp only [Hdr.ctr, ctrInit, beBytes_eq_highFirst]
  rfl

/-- The nonce in plain numbers is the model's (R191). -/
theorem toHdr_nonce (h : MsgHeader) : h.toHdr.nonce = eaxNonce h := by
  simp only [Hdr.nonce, eaxNonce, beBytes_eq_highFirst]
  rfl

/-- The counter block is the nonce, then the block counter at 0 (R190, R191). -/
theorem ctrInit_eq_nonce_append (h : MsgHeader) : ctrInit h = eaxNonce h ++ beBytes 4 0 := rfl

/-- The counter block starts with the nonce (R194). -/
theorem ctrInit_take (h : MsgHeader) : (ctrInit h).take 12 = eaxNonce h := by
  rw [ctrInit_eq_nonce_append, List.take_left' (eaxNonce_length h)]

/-- The nonce and the counter block of a snapshot read its source node id and message id alone (R192). -/
theorem derivations_congr {S S' : Snapshot} (hlo : S'.hdr.srcLo = S.hdr.srcLo) (hhi : S'.hdr.srcHi = S.hdr.srcHi)
    (hid : S'.hdr.msgId = S.hdr.msgId) :
    eaxNonce S'.header = eaxNonce S.header ∧ ctrInit S'.header = ctrInit S.header := by
  have hnonce : eaxNonce S'.header = eaxNonce S.header := by
    simp only [eaxNonce, Snapshot.header, Snapshot.src, hlo, hhi, hid]
  exact ⟨hnonce, by rw [ctrInit_eq_nonce_append, ctrInit_eq_nonce_append, hnonce]⟩

/-! ### DERIVE_CTR and DERIVE_NONCE -/

/-- DERIVE_CTR completes with the counter block of its snapshot's header (R193). -/
theorem exec_deriveCtr_busy {s : State} {S : Snapshot} (hS : s.phase = .busy S) :
    exec .deriveCtr s = .next (s.complete (.ok ⟨.bytes (ctrInit S.header), []⟩)) := by
  rw [← operands_busy hS]
  rfl

/-- DERIVE_NONCE completes with the nonce of its snapshot's header (R194). -/
theorem exec_deriveNonce_busy {s : State} {S : Snapshot} (hS : s.phase = .busy S) :
    exec .deriveNonce s = .next (s.complete (.ok ⟨.bytes (eaxNonce S.header), []⟩)) := by
  rw [← operands_busy hS]
  rfl

/-- Settles O33: the output is the counter block of the registers, with no register write. -/
theorem deriveCtrWritesCounter : Obligations.DeriveCtrWritesCounter := by
  refine ⟨decode_encode .deriveCtr, fun s S hS => ?_⟩
  rw [regHdr_eq, toHdr_ctr]
  exact ⟨succeedsWith_of_bytes (exec_deriveCtr_busy hS), ctrInit_length S.header⟩

/-- Settles O34: the output is the nonce of the registers, with no register write. -/
theorem deriveNonceWritesNonce : Obligations.DeriveNonceWritesNonce := by
  refine ⟨decode_encode .deriveNonce, fun s S hS => ?_⟩
  rw [regHdr_eq, toHdr_nonce, toHdr_ctr]
  exact ⟨succeedsWith_of_bytes (exec_deriveNonce_busy hS), eaxNonce_length S.header, (ctrInit_take S.header).symm⟩

/-- Settles O43: the outputs are the same, and the completion discards the snapshot. -/
theorem derivationsReadSourceAndIdOnly : Obligations.DerivationsReadSourceAndIdOnly := by
  intro s S S' hS hlo hhi hid
  have hS' : { s with phase := .busy S' }.phase = .busy S' := rfl
  obtain ⟨hnonce, hctr⟩ := derivations_congr hlo hhi hid
  constructor
  · rw [exec_deriveCtr_busy hS', exec_deriveCtr_busy hS, hctr, complete_setPhase]
  · rw [exec_deriveNonce_busy hS', exec_deriveNonce_busy hS, hnonce, complete_setPhase]

end Sys2Proof.Machine

/-! SUPPORT. Counter mode and the comparison of tags (43_ctr_sha1.md): counter mode undone by itself, the counter
blocks of the CTR+SHA1 suite, and CtEq. -/

namespace Sys2Proof.Machine

/-! ### Counter mode -/

/-- Settles O49: both applications lay the same keystream over the input, for the first keeps its length. -/
theorem counterModeUndoesItself : Obligations.CounterModeUndoesItself := by
  intro key c0 x
  rw [aes128Ctr_eq_xorBytes key c0 (aes128Ctr key c0 x), aes128Ctr_length, aes128Ctr_eq_xorBytes]
  exact xorBytes_cancel x _ (ctrMask_length key c0 x.length).ge

/-! ### The counter blocks of the CTR+SHA1 suite -/

/-- The number of a little-endian string: its first part, then the second at a higher weight. -/
theorem uLE_append (s t : Bytes) : uLE (s ++ t) = uLE s + 256 ^ s.length * uLE t := by
  induction s with
  | nil => simp [uLE]
  | cons b s ih => simp only [List.cons_append, uLE, ih, List.length_cons, Nat.pow_succ']; ring

/-- The number of a big-endian string: its first part at a higher weight, then the second. -/
theorem uBE_append (s t : Bytes) : uBE (s ++ t) = 256 ^ t.length * uBE s + uBE t := by
  rw [uBE, List.reverse_append, uLE_append, List.length_reverse, Nat.add_comm]
  rfl

/-- BE undoes uBE. -/
theorem beBytes_uBE (s : Bytes) : beBytes s.length (uBE s) = s := by
  rw [beBytes, uBE, ← List.length_reverse, leBytes_uLE, List.reverse_reverse]

/-- The number of a big-endian string is below 256 to its length. -/
theorem uBE_lt (s : Bytes) : uBE s < 256 ^ s.length := by
  simpa only [uBE, List.length_reverse] using uLE_lt s.reverse

/-- A number that fits n bytes takes the place of the n zero bytes it is added to: no carry leaves them. -/
theorem uBE_append_zero_add (s : Bytes) {n j : Nat} (hj : j < 256 ^ n) :
    uBE (s ++ beBytes n 0) + j = uBE (s ++ beBytes n j) := by
  simp only [uBE_append, beBytes_length, uBE_beBytes, Nat.zero_mod, Nat.mod_eq_of_lt hj, Nat.add_zero]

/-- The counter of block j is the nonce, then BE32(j): the sum neither carries nor wraps (R190, R216). -/
theorem counterBlock_ctrInit (h : MsgHeader) {j : Nat} (hj : j < 2 ^ 32) :
    beBytes 16 ((uBE (ctrInit h) + j) % 2 ^ 128) = eaxNonce h ++ beBytes 4 j := by
  have hlen : (eaxNonce h ++ beBytes 4 j).length = 16 := by simp
  have hlt : uBE (eaxNonce h ++ beBytes 4 j) < 2 ^ 128 :=
    (uBE_lt _).trans_eq (by rw [hlen]; norm_num)
  calc beBytes 16 ((uBE (ctrInit h) + j) % 2 ^ 128)
      = beBytes 16 (uBE (eaxNonce h ++ beBytes 4 j)) := by
        rw [ctrInit_eq_nonce_append, uBE_append_zero_add _ hj, Nat.mod_eq_of_lt hlt]
    _ = eaxNonce h ++ beBytes 4 j := by rw [← hlen, beBytes_uBE]

/-- Settles O50: j stays in the four zero bytes that end the counter block. -/
theorem ctrSha1CounterStaysInLowWord : Obligations.CtrSha1CounterStaysInLowWord := by
  intro h dk j hj
  rw [keystreamBlock, counterBlock_ctrInit h hj]
  simp only [eaxNonce, beBytes_eq_highFirst]

/-- Settles O51: the or of the byte differences is 0 when no byte differs. -/
theorem constantTimeCompareIsEquality : Obligations.ConstantTimeCompareIsEquality :=
  fun _ _ h => ctEq_iff h

end Sys2Proof.Machine

/-! SUPPORT. The EAX mode (44_eax.md): the lengths of what encryption makes, and decryption of its ciphertext under any
tag. -/

namespace Sys2Proof.Machine

/-- The ciphertext is as long as the message (R254). -/
@[simp] theorem eaxEnc_fst_length (key nonce aad m : Bytes) (tl : Nat) :
    (eaxEnc key nonce aad m tl).1.length = m.length := aes128Ctr_length ..

/-- The tag has the length asked for, which is at most a block (R254). -/
theorem eaxEnc_snd_length (key nonce aad m : Bytes) {tl : Nat} (htl : tl ≤ 16) :
    (eaxEnc key nonce aad m tl).2.length = tl := by
  simp [eaxEnc, htl]

/-- Under a tag of the length that encryption used, its ciphertext gives the message when the tag is the one it made,
and FAIL otherwise (R255). -/
theorem eaxDec_eaxEnc (key nonce aad m : Bytes) {tl : Nat} (htl : tl ≤ 16) {tag : Bytes} (htag : tag.length = tl) :
    eaxDec key nonce aad (eaxEnc key nonce aad m tl).1 tag =
      if tag = (eaxEnc key nonce aad m tl).2 then some m else none := by
  subst htag
  have hback : aes128Ctr key (omac key 0 nonce) (eaxEnc key nonce aad m tag.length).1 = m :=
    counterModeUndoesItself ..
  calc eaxDec key nonce aad (eaxEnc key nonce aad m tag.length).1 tag
      = if tag = (eaxEnc key nonce aad m tag.length).2
          then some (aes128Ctr key (omac key 0 nonce) (eaxEnc key nonce aad m tag.length).1) else none :=
        eaxDec_eq _ _ _ _ htl
    _ = if tag = (eaxEnc key nonce aad m tag.length).2 then some m else none := by rw [hback]

/-- Settles O52: the one tag that decryption accepts for a ciphertext is the tag made for it, and counter mode undoes
itself. -/
theorem eaxAcceptsOnlyItsTag : Obligations.EaxAcceptsOnlyItsTag := by
  intro key nonce aad m tl htl
  have hlen := eaxEnc_snd_length key nonce aad m htl
  refine ⟨eaxEnc_fst_length .., hlen, ?_, fun tag htag hne => ?_⟩
  · rw [eaxDec_eaxEnc key nonce aad m htl hlen, if_pos rfl]
  · rw [eaxDec_eaxEnc key nonce aad m htl htag, if_neg hne]

end Sys2Proof.Machine

/-! SUPPORT. The message codec facade (45_facade.md): illegal words, NOP and ZEROIZE, the checks of ENCODE and DECODE in
order, the sealed region and its payload as plain numbers, and DECODE of what ENCODE produced. -/

namespace Sys2Proof.Machine

open Sys2Proof.Claims

/-! ### Illegal words -/

/-- Settles O5: the decoder's error of each kind of illegal word, and the error completion with its detail. -/
theorem illegalWordCompletesWithError : Obligations.IllegalWordCompletesWithError := by
  intro s S hr hS
  have hfails {why : IllegalCommand} (hd : decode S.cmd = .error why) :
      engineTurn s = .next (failed s (errorDetail (illegalError why)).toNat) := by
    rw [engineTurn_illegal hr hS hd, State.completeIllegal, raiseError_eq_failed]
  refine ⟨fun hopc => hfails (decode_of_opcode_not_mem hopc), fun hopc hrsv => ?_⟩
  obtain ⟨i, hi⟩ := (mem_opcodes_iff _).1 hopc
  exact hfails ((decode_of_opcode hi).trans (if_neg hrsv))

/-! ### NOP and ZEROIZE -/

/-- Settles O31: NOP's result keeps the output and has no register write. -/
theorem nopOnlyCompletes : Obligations.NopOnlyCompletes :=
  ⟨decode_encode .nop, fun _ _ _ => rfl⟩

/-- The update lists of the commands but ZEROIZE (R121). -/
theorem resultOf_upd_cases {i : Instr} (hi : i ≠ .zeroize) {s : State} {x : Success} (hx : resultOf i s = .ok x) :
    x.upd = [] ∨ (∃ n, x.upd = [.hdrLen n]) ∨ ∃ p, x.upd = headerWrites p := by
  have hkeys : .keysZero ∉ x.upd := resultOf_keepsKeys hi s x hx
  rcases resultOf_cases i s with ⟨e, h⟩ | ⟨-, h⟩ | ⟨b, upd, h, hupd⟩ <;> cases hx.symm.trans h
  · exact .inl rfl
  · rcases hupd with h | h | h | rfl
    · exact .inl h
    · exact .inr (.inl h)
    · exact .inr (.inr h)
    · exact absurd List.mem_cons_self hkeys

/-- The output leaves IN_BUF (R122). -/
theorem storeOutput_inBuf (s : State) (out : Output) : (s.storeOutput out).inBuf = s.inBuf := by
  cases out <;> rfl

/-- A completion with the result of a command but ZEROIZE leaves IN_BUF (R305). -/
theorem complete_inBuf {i : Instr} (hi : i ≠ .zeroize) (s : State) : (s.complete (resultOf i s)).inBuf = s.inBuf := by
  cases hx : resultOf i s with
  | error e => rfl
  | ok x =>
    rw [complete_ok, storeOutput_inBuf]
    rcases resultOf_upd_cases hi hx with h | ⟨n, h⟩ | ⟨p, h⟩ <;> rw [h]
    · rfl
    · rfl
    · rw [applyWrites_headerWrites]
      rfl

/-- ZEROIZE's completion (R305). -/
theorem complete_zeroize (s : State) : s.complete zeroizeResult =
    { s.succeed with
      keys := noKeys, inBuf := [], inLen := 0, hdrLen := 0, outBuf := [], outLen := 0 } := by
  have hwrites : s.complete zeroizeResult =
      (s.succeed.applyWrites [.keysZero, .inBufZero, .inLenZero, .hdrLen 0]).storeOutput (.bytes []) :=
    complete_ok s _
  rw [hwrites, applyWrites_zeroize]
  rfl

/-- Settles O32: ZEROIZE's update list, and the update lists of the others. -/
theorem zeroizeClearsSecrets : Obligations.ZeroizeClearsSecrets := by
  refine ⟨decode_encode .zeroize, fun s _ _ => congrArg Host.Outcome.next (complete_zeroize s),
    fun i s t hi ht => ?_⟩
  have hbuf := complete_inBuf hi s
  rw [exec_eq] at ht
  cases ht
  split <;> exact hbuf

/-! ### Lists of checks -/

/-- No check of the list has the detail 0, which stands for no failure (R321). -/
def detailed (l : List (Bool × Nat)) : Prop := ∀ c ∈ l, c.2 ≠ 0

/-- A check that fails in a first part of the list is the first failing check of the whole. -/
theorem firstFailing_append_of_ne_zero {l : List (Bool × Nat)} (h : firstFailing l ≠ 0) (l' : List (Bool × Nat)) :
    firstFailing (l ++ l') = firstFailing l := by
  cases hf : l.find? (·.1) with
  | none => exact absurd (by simp [firstFailing, hf]) h
  | some c => simp [firstFailing, hf]

/-- A first part of the list in which no check fails leaves the first failing check to the rest. -/
theorem firstFailing_append_of_eq_zero {l : List (Bool × Nat)} (hl : detailed l) (h : firstFailing l = 0)
    (l' : List (Bool × Nat)) : firstFailing (l ++ l') = firstFailing l' := by
  cases hf : l.find? (·.1) with
  | none => simp [firstFailing, hf]
  | some c => exact absurd (by simpa [firstFailing, hf] using h) (hl c (List.mem_of_find?_eq_some hf))

/-- The check after a first part of the list in which none fails. -/
theorem firstFailing_append_cons {l : List (Bool × Nat)} (hl : detailed l) (h : firstFailing l = 0) {b : Bool}
    (hb : b = true) (d : Nat) (l' : List (Bool × Nat)) : firstFailing (l ++ (b, d) :: l') = d := by
  rw [firstFailing_append_of_eq_zero hl h]
  simp [firstFailing, hb]

/-- An error reported by a first part of the list is reported by the whole. -/
theorem reportsFirst_append_error {α β : Type} {l : List (Bool × Nat)} {e : CmdError}
    (h : reportsFirst l (.error e : Except CmdError β)) (l' : List (Bool × Nat)) :
    reportsFirst (l ++ l') (.error e : Except CmdError α) :=
  (firstFailing_append_of_ne_zero (fun h0 => errorDetail_ne_zero e (h.symm.trans h0)) l').trans h

/-- After a success of a first part of the list, what reports the rest reports the whole. -/
theorem reportsFirst_append_ok {α β : Type} {l l' : List (Bool × Nat)} {x : β} {r : Except CmdError α}
    (hl : detailed l) (h : reportsFirst l (.ok x)) (hr : reportsFirst l' r) : reportsFirst (l ++ l') r := by
  have hrest := firstFailing_append_of_eq_zero hl h l'
  cases r <;> exact hrest.trans hr

/-- The details of R151 are not 0. -/
theorem headerChecks_detailed (S : Snapshot) : detailed (headerChecks S) := by
  simp [detailed, headerChecks]

/-- The details of UNPACK_HDR's checks are not 0 (R332). -/
theorem parseChecks_detailed (n : Nat) (S : Snapshot) : detailed (parseChecks n S) := by
  simp [detailed, parseChecks]

/-! ### The numbers of a type -/

/-- The tag length of a type by the number of its code (R133). -/
theorem tagLenOf_encCode (enc : EncType) : tagLenOf (encCode enc).toNat = tagLen enc := by
  cases enc <;> rfl

/-- The key variant of a type by the number of its code (R133). -/
theorem keyTypeOf_encCode (enc : EncType) : keyTypeOf (encCode enc).toNat = (keyNeeded enc).toNat := by
  cases enc <;> rfl

/-- The check of the key variant by the number of the type's code (R284). -/
theorem keyVariant_check {k : BitVec 2} {c : BitVec 4} {enc : EncType} (h : c = encCode enc) :
    (k.toNat != keyTypeOf c.toNat) = true ↔ k ≠ keyNeeded enc := by
  rw [h, keyTypeOf_encCode, bne_iff_ne, ne_eq, BitVec.toNat_inj]

/-! ### Completions that clear the keys -/

/-- ENCODE completes with its result and clears the keys (R282, R55). -/
theorem exec_encode_busy {s : State} {S : Snapshot} (hS : s.phase = .busy S) :
    exec .encode s = .next (s.complete (encodeResult s.params.bufBytes S)).clearKeys := by
  rw [← operands_busy hS]
  rfl

/-- DECODE completes with its result and clears the keys (R290, R55). -/
theorem exec_decode_busy {s : State} {S : Snapshot} (hS : s.phase = .busy S) :
    exec .decode s = .next (s.complete (decodeResult s.params.bufBytes S)).clearKeys := by
  rw [← operands_busy hS]
  rfl

/-- A completion with output bytes that then clears the keys (R122, R55). -/
theorem succeedsWith_of_bytes_clearKeys {i : Instr} {s : State} {b : Bytes} {upd : List RegWrite}
    (h : exec i s = .next (s.complete (.ok ⟨.bytes b, upd⟩)).clearKeys) :
    SucceedsWith i s b { s.applyWrites upd with keys := noKeys } :=
  ⟨_, h, get_ofBytes b, ofBytes_wf b, rfl, rfl⟩

/-- An error completion that then clears the keys (R122, R55). -/
theorem complete_error_clearKeys (s : State) (e : CmdError) :
    (s.complete (.error e)).clearKeys = { failed s (errorDetail e).toNat with keys := noKeys } :=
  congrArg State.clearKeys (raiseError_eq_failed s e)

/-! ### ENCODE -/

/-- ENCODE reports what ValidateHeader reports, then the key variant and the two capacities (R282, R332). -/
theorem encodeResult_reportsFirst (n : Nat) (S : Snapshot) : reportsFirst (encodeChecks n S) (encodeResult n S) := by
  have hvalid := validateHeader_reportsFirst S
  unfold encodeChecks encodeResult
  split
  case h_1 e he =>
    rw [he] at hvalid
    exact reportsFirst_append_error hvalid _
  case h_2 enc henc =>
    rw [henc] at hvalid
    obtain ⟨-, hcode, -⟩ := (validateHeader_ok_iff S enc).1 henc
    have hlen : (regHdr S).len = (packHeader S.header).length := by rw [regHdr_eq, toHdr_len, packHeader_length]
    have htag : tagLenOf (regHdr S).enc = tagLen enc :=
      (congrArg (tagLenOf ·.toNat) hcode).trans (tagLenOf_encCode enc)
    refine reportsFirst_append_ok (headerChecks_detailed S) hvalid ?_
    refine reportsFirst_check (e := .keyVariant) (keyVariant_check hcode) ?_
    refine reportsFirst_check (e := .inputCapacity) decide_eq_true_iff ?_
    exact reportsFirst_check (e := .outputCapacity) (by rw [hlen, htag, input_length, decide_eq_true_iff]) rfl

/-- ENCODE succeeds exactly when its checks pass, with the packed header and the sealed region (R282). -/
theorem encodeResult_ok_iff (n : Nat) (S : Snapshot) (r : Success) :
    encodeResult n S = .ok r ↔ ∃ enc, validateHeader S = .ok enc ∧ S.keys.keyType = keyNeeded enc ∧
      S.inLen.toNat ≤ n ∧ (packHeader S.header).length + S.inLen.toNat + tagLen enc ≤ n ∧
      r = ⟨.bytes (packHeader S.header ++ sealRegion enc S.header S S.input),
        [.hdrLen (BitVec.ofNat 5 (packHeader S.header).length)]⟩ := by
  unfold encodeResult
  cases validateHeader S with
  | error e => simp
  | ok enc =>
    simp only [ite_error_eq_ok, ne_eq, not_not, Nat.not_lt, Except.ok.injEq, input_length, exists_eq_left',
      eq_comm (a := r)]

/-- ENCODE with a failing check ends with its detail and with the keys cleared (R282, R332). -/
theorem exec_encode_failed {s : State} {S : Snapshot} {d : Nat} (hS : s.phase = .busy S)
    (hd : firstFailing (encodeChecks s.params.bufBytes S) = d) (h0 : d ≠ 0) :
    exec .encode s = .next { failed s d with keys := noKeys } := by
  subst hd
  obtain ⟨e, he, hdetail⟩ := reportsFirst_error (encodeResult_reportsFirst s.params.bufBytes S) h0
  rw [exec_encode_busy hS, he, complete_error_clearKeys, hdetail]

/-- The EAX tag in plain numbers is the model's (R254). -/
theorem eaxTagOf_eq (S : Snapshot) (h : MsgHeader) (c : Bytes) :
    eaxTagOf S h.toHdr c = eaxTag S.dataKey (eaxNonce h) (pseudoHeader h) c := by
  rw [eaxTagOf, toHdr_nonce, toHdr_pseudo, eaxTag]

/-- The sealed region in plain numbers is the model's (R280). -/
theorem regionOf_eq {enc : EncType} {h : MsgHeader} (henc : h.enc = encCode enc) (S : Snapshot) (payload : Bytes) :
    regionOf S h.toHdr payload = sealRegion enc h S payload := by
  have hcode : h.toHdr.enc = (encCode enc).toNat := congrArg BitVec.toNat henc
  simp only [regionOf, eaxTagOf_eq, toHdr_ctr, toHdr_nonce, toHdr_pseudo, hcode, tagLenOf_encCode]
  cases enc <;> rfl

/-- Settles O38: a success is the packed header and the sealed region, whose numbers are those of the statement. -/
theorem encodeChecksAndSeals : Obligations.EncodeChecksAndSeals := by
  refine ⟨decode_encode .encode, fun s S hS => ⟨fun hd => ?_, exec_encode_failed hS rfl⟩⟩
  obtain ⟨x, hx⟩ := reportsFirst_ok (encodeResult_reportsFirst s.params.bufBytes S) hd
  obtain ⟨enc, hvalid, -, -, -, rfl⟩ := (encodeResult_ok_iff _ S x).1 hx
  obtain ⟨-, hcode, -⟩ := (validateHeader_ok_iff S enc).1 hvalid
  have hseals := succeedsWith_of_bytes_clearKeys ((exec_encode_busy hS).trans (by rw [hx]))
  rw [packHeader_length] at hseals
  rw [regHdr_eq, toHdr_bytes _ (flagsMask_idem S.hdr.flags), toHdr_len, regionOf_eq hcode]
  exact hseals

/-- The header check at place n of R151, when none before it fails, is ENCODE's first failing check (R283). -/
theorem firstFailing_encodeChecks {S : Snapshot} {n d : Nat} {b : Bool} (m : Nat)
    (h0 : firstFailing ((headerChecks S).take n) = 0) (hn : (headerChecks S)[n]? = some (b, d)) (hb : b = true) :
    firstFailing (encodeChecks m S) = d := by
  obtain ⟨hlt, hget⟩ := List.getElem?_eq_some_iff.1 hn
  have hsplit : headerChecks S = (headerChecks S).take n ++ (b, d) :: (headerChecks S).drop (n + 1) := by
    rw [← hget, ← List.drop_eq_getElem_cons, List.take_append_drop]
  have htake : detailed ((headerChecks S).take n) := fun c hc => headerChecks_detailed S c (List.mem_of_mem_take hc)
  rw [encodeChecks, hsplit, List.append_assoc, List.cons_append]
  exact firstFailing_append_cons htake h0 hb d _

/-- Settles O45: the four invariants are the last four checks of R151. -/
theorem invariantsAreRejected : Obligations.InvariantsAreRejected := by
  intro s S hS h none_of
  have hfails {n d : Nat} {b : Bool} (h0 : none_of n) (hn : (headerChecks S)[n]? = some (b, d)) (hb : b = true)
      (hd : d ≠ 0) : exec .encode s = .next { failed s d with keys := noKeys } :=
    exec_encode_failed hS (firstFailing_encodeChecks _ h0 hn hb) hd
  exact ⟨fun h0 hany => hfails h0 rfl (beq_iff_eq.2 hany) (by decide),
    fun h0 heq => hfails h0 rfl (beq_iff_eq.2 heq) (by decide),
    fun h0 htun hsync => hfails h0 rfl (Bool.and_eq_true_iff.2 ⟨htun, hsync⟩) (by decide),
    fun h0 hver htun => hfails h0 rfl (Bool.and_eq_true_iff.2 ⟨beq_iff_eq.2 hver, htun⟩) (by decide)⟩

/-! ### DECODE -/

/-- The part of a string up to an offset. -/
theorem slice_zero (m : Bytes) (i : Nat) : slice m 0 i = m.take i := rfl

/-- The part of a string from an offset on. -/
theorem slice_to_end (m : Bytes) (i : Nat) : slice m i m.length = m.drop i := by
  rw [slice, List.take_length]

/-- The part of the input from an offset on. -/
theorem slice_input (S : Snapshot) (i : Nat) : slice S.input i S.inLen.toNat = S.input.drop i := by
  rw [← input_length, slice_to_end]

/-- DECODE up to its transform: the parsed header when every check passes (R290, R291). -/
def decodeChecked (n : Nat) (S : Snapshot) : Except CmdError Parsed :=
  if n < S.inLen.toNat then .error .inputTooLong
  else
    (parseHeader S S.input).bind fun p =>
      if S.keys.keyType ≠ keyNeeded p.enc then .error .keyVariant
      else if S.inLen.toNat - p.len < tagLen p.enc then .error .shortRegion
      else .ok p

/-- DECODE is its checks, then the inverse transform of what follows the header (R290). -/
theorem decodeResult_eq (n : Nat) (S : Snapshot) :
    decodeResult n S = (decodeChecked n S).bind fun p =>
      (openRegion p.enc p.hdr S (S.input.drop p.len)).map fun payload => ⟨.bytes payload, headerWrites p⟩ := by
  unfold decodeResult decodeChecked
  simp only [slice_input, List.length_drop, input_length]
  split
  · rfl
  · cases parseHeader S S.input with
    | error e => rfl
    | ok p =>
      simp only [Except.bind]
      split
      · rfl
      · split
        · rfl
        · dsimp only
          cases openRegion p.enc p.hdr S (S.input.drop p.len) <;> rfl

/-- The checks of DECODE pass exactly when each of them does (R290, R291). -/
theorem decodeChecked_ok_iff (n : Nat) (S : Snapshot) (p : Parsed) :
    decodeChecked n S = .ok p ↔ S.inLen.toNat ≤ n ∧ parseHeader S S.input = .ok p ∧
      S.keys.keyType = keyNeeded p.enc ∧ tagLen p.enc ≤ S.inLen.toNat - p.len := by
  unfold decodeChecked
  rw [ite_error_eq_ok, Nat.not_lt]
  cases parseHeader S S.input with
  | error e => simp [Except.bind]
  | ok q =>
    simp only [Except.bind, ite_error_eq_ok, ne_eq, not_not, Nat.not_lt, Except.ok.injEq]
    constructor
    · rintro ⟨hin, hkey, hregion, rfl⟩
      exact ⟨hin, rfl, hkey, hregion⟩
    · rintro ⟨hin, rfl, hkey, hregion⟩
      exact ⟨hin, hkey, hregion, rfl⟩

/-- The type of a parsed header is that of its code (R161). -/
theorem parseHeader_enc {S : Snapshot} {m : Bytes} {p : Parsed} (hp : parseHeader S m = .ok p) :
    p.hdr.enc = encCode p.enc := by
  obtain ⟨-, -, hcode, -, -, -, hhdr⟩ := (parseHeader_ok_iff S m p).1 hp
  rw [hhdr]
  exact hcode

/-- DECODE up to its transform reports IN_LEN too large, what ParseHeader reports, the key variant, and a region
shorter than the tag (R291, R332). -/
theorem decodeChecked_reportsFirst (n : Nat) (S : Snapshot) :
    reportsFirst (decodeChecks n S) (decodeChecked n S) := by
  have hparse := parseHeader_reportsFirst S S.input
  have hdetailed : detailed (wireChecks S S.input) := by simp [detailed, wireChecks]
  have hinput : inputOf S = S.input := rfl
  unfold decodeChecks decodeChecked
  rw [parseChecks_eq, List.cons_append, hinput]
  refine reportsFirst_check (e := .inputTooLong) decide_eq_true_iff ?_
  cases hp : parseHeader S S.input with
  | error e =>
    rw [hp] at hparse
    exact reportsFirst_append_error hparse _
  | ok p =>
    rw [hp] at hparse
    obtain ⟨hwire, hlen, -⟩ := parseHeader_eq_wireHdr hp
    have hcode := parseHeader_enc hp
    have hwcode : (wireHdr S S.input).enc = p.hdr.enc.toNat := by rw [hwire]; rfl
    have htag : tagLenOf p.hdr.enc.toNat = tagLen p.enc := by rw [hcode, tagLenOf_encCode]
    rw [hwcode, htag, ← hlen]
    refine reportsFirst_append_ok hdetailed hparse ?_
    refine reportsFirst_check (e := .keyVariant) (keyVariant_check hcode) ?_
    exact reportsFirst_check (e := .shortRegion) decide_eq_true_iff rfl

/-- DECODE with a failing check before its transform ends with its detail and with the keys cleared (R293, R332). -/
theorem exec_decode_failed {s : State} {S : Snapshot} {d : Nat} (hS : s.phase = .busy S)
    (hd : firstFailing (decodeChecks s.params.bufBytes S) = d) (h0 : d ≠ 0) :
    exec .decode s = .next { failed s d with keys := noKeys } := by
  subst hd
  obtain ⟨e, he, hdetail⟩ := reportsFirst_error (decodeChecked_reportsFirst s.params.bufBytes S) h0
  rw [exec_decode_busy hS, decodeResult_eq, he, hdetail, ← complete_error_clearKeys]
  rfl

/-- The detail by which the statements name an error (R321). -/
def detailOf (e : CmdError) : Nat := (errorDetail e).toNat

/-- The payload of a CTR+SHA1 region in plain numbers, or its tag error, is the model's (R231). -/
theorem payloadOf_ctrSha1 {h : MsgHeader} (henc : h.enc = encCode .aes128CtrSha1) (S : Snapshot) {region : Bytes}
    (hlen : 20 ≤ region.length) :
    payloadOf S h.toHdr region = (openCtrSha1 h S.dataKey S.intKey region).mapError detailOf := by
  have hcode : h.toHdr.enc = 1 := congrArg BitVec.toNat henc
  have hx : (aes128Ctr S.dataKey (ctrInit h) region).length = region.length := aes128Ctr_length ..
  simp only [payloadOf, openCtrSha1, hcode, one_ne_zero, if_false, if_true, toHdr_ctr, toHdr_pseudo, slice_zero,
    slice_to_end]
  generalize aes128Ctr S.dataKey (ctrInit h) region = x at hx ⊢
  have htag : (hmacSha1 S.intKey (pseudoHeader h ++ x.take (x.length - 20))).length =
      (x.drop (x.length - 20)).length := by
    rw [hmacSha1_length, List.length_drop]
    omega
  simp only [ctEq_iff htag]
  split_ifs <;> rfl

/-- The payload of an EAX region in plain numbers, or its tag error, is the model's (R261). -/
theorem payloadOf_eax {h : MsgHeader} {enc : EncType} (henc : h.enc = encCode enc) (heax : 2 ≤ (encCode enc).toNat)
    (htl : tagLen enc ≤ 16) (S : Snapshot) {region : Bytes} (hlen : tagLen enc ≤ region.length) :
    payloadOf S h.toHdr region = (openEax h S.dataKey region (tagLen enc)).mapError detailOf := by
  have hcode : h.toHdr.enc = (encCode enc).toNat := congrArg BitVec.toNat henc
  have hzero : (encCode enc).toNat ≠ 0 := by omega
  have hone : (encCode enc).toNat ≠ 1 := by omega
  have htag : (region.drop (region.length - tagLen enc)).length = tagLen enc := by
    rw [List.length_drop]
    omega
  simp only [payloadOf, openEax, hcode, if_neg hzero, if_neg hone, tagLenOf_encCode, slice_zero, slice_to_end,
    eaxDec_eq _ _ _ _ (htag.le.trans htl), htag, eaxTagOf_eq, toHdr_nonce, trunc,
    eq_comm (a := region.drop (region.length - tagLen enc))]
  split_ifs <;> rfl

/-- The payload of a region in plain numbers, or its tag error, is the model's (R280). -/
theorem payloadOf_eq {h : MsgHeader} {enc : EncType} (henc : h.enc = encCode enc) (S : Snapshot) {region : Bytes}
    (hlen : tagLen enc ≤ region.length) :
    payloadOf S h.toHdr region = (openRegion enc h S region).mapError detailOf := by
  cases enc with
  | none =>
    have hcode : h.toHdr.enc = 0 := congrArg BitVec.toNat henc
    rw [payloadOf, if_pos hcode]
    rfl
  | aes128CtrSha1 => exact payloadOf_ctrSha1 henc S hlen
  | aes128Eax64 => exact payloadOf_eax henc (by decide) (by decide) S hlen
  | aes128Eax128 => exact payloadOf_eax henc (by decide) (by decide) S hlen

/-- What the statements open, on a message that passes DECODE's checks, is what DECODE opens (R290). -/
theorem payloadOf_wire {n : Nat} {S : Snapshot} {p : Parsed} (hp : decodeChecked n S = .ok p) :
    payloadOf S (wireHdr S S.input) (S.input.drop (wireHdr S S.input).len) =
      (openRegion p.enc p.hdr S (S.input.drop p.len)).mapError detailOf := by
  obtain ⟨-, hparse, -, hregion⟩ := (decodeChecked_ok_iff n S p).1 hp
  obtain ⟨hwire, hlen, -⟩ := parseHeader_eq_wireHdr hparse
  rw [← hlen, hwire]
  exact payloadOf_eq (parseHeader_enc hparse) S (by rwa [List.length_drop, input_length])

/-- A message that passes DECODE's checks and opens is delivered with its header (R290). -/
theorem decodeResult_of_payload {n : Nat} {S : Snapshot} {p : Parsed} {payload : Bytes}
    (hp : decodeChecked n S = .ok p)
    (hopen : payloadOf S (wireHdr S S.input) (S.input.drop (wireHdr S S.input).len) = .ok payload) :
    decodeResult n S = .ok ⟨.bytes payload, headerWrites p⟩ := by
  rw [payloadOf_wire hp] at hopen
  rw [decodeResult_eq, hp, Except.bind]
  cases ho : openRegion p.enc p.hdr S (S.input.drop p.len) <;> rw [ho] at hopen <;> cases hopen
  rfl

/-- A message that passes DECODE's checks and does not open ends with the tag error (R293). -/
theorem decodeResult_of_tagError {n d : Nat} {S : Snapshot} {p : Parsed} (hp : decodeChecked n S = .ok p)
    (hopen : payloadOf S (wireHdr S S.input) (S.input.drop (wireHdr S S.input).len) = .error d) :
    ∃ e, decodeResult n S = .error e ∧ (errorDetail e).toNat = d := by
  rw [payloadOf_wire hp] at hopen
  rw [decodeResult_eq, hp, Except.bind]
  cases ho : openRegion p.enc p.hdr S (S.input.drop p.len) <;> rw [ho] at hopen <;> cases hopen
  exact ⟨_, rfl, rfl⟩

/-- Settles O39: the checks in order, then the payload of the region or its tag error. -/
theorem decodeChecksAndOpens : Obligations.DecodeChecksAndOpens := by
  refine ⟨decode_encode .decode, fun s S hS => ?_⟩
  have hexec := exec_decode_busy hS
  have hreport := decodeChecked_reportsFirst s.params.bufBytes S
  refine ⟨fun hd payload hopen => ?_, fun hd d hopen => ?_, exec_decode_failed hS rfl⟩ <;>
    obtain ⟨p, hp⟩ := reportsFirst_ok hreport hd
  · obtain ⟨-, hparse, -, -⟩ := (decodeChecked_ok_iff _ S p).1 hp
    obtain ⟨hwire, hlen, hmask⟩ := parseHeader_eq_wireHdr hparse
    have hloads := succeedsWith_of_bytes_clearKeys
      (hexec.trans (by rw [decodeResult_of_payload hp hopen]))
    rw [applyWrites_headerWrites, hmask, ← toHdr_registers, ← hwire, hlen] at hloads
    exact hloads
  · obtain ⟨e, he, rfl⟩ := decodeResult_of_tagError hp hopen
    rw [hexec, he, complete_error_clearKeys]

/-- Settles O44: the key variant is checked right after the header, and the keys enter no check before it. -/
theorem wrongKeyVariantIsRefused : Obligations.WrongKeyVariantIsRefused := by
  intro s S hS
  refine ⟨fun hhdr hkey => exec_encode_failed hS ?_ (by decide),
    fun hparse hkey => exec_decode_failed hS ?_ (by decide)⟩
  · exact firstFailing_append_cons (headerChecks_detailed S) hhdr (bne_iff_ne.2 hkey) _ _
  · exact firstFailing_append_cons (parseChecks_detailed _ S) hparse (bne_iff_ne.2 hkey) _ _

/-! ### DECODE of what ENCODE produced -/

/-- Opening reads the snapshot's keys alone (R280). -/
theorem openRegion_congr_keys {S S' : Snapshot} (hkeys : S'.keys = S.keys) (enc : EncType) (h : MsgHeader)
    (region : Bytes) : openRegion enc h S' region = openRegion enc h S region := by
  have hdata : S'.dataKey = S.dataKey := by rw [Snapshot.dataKey, Snapshot.dataKey, hkeys]
  have hint : S'.intKey = S.intKey := by rw [Snapshot.intKey, Snapshot.intKey, hkeys]
  simp only [openRegion, hdata, hint]

/-- CTR+SHA1 opens what it sealed (R230, R231). -/
theorem openCtrSha1_sealCtrSha1 (h : MsgHeader) (dk ik payload : Bytes) :
    openCtrSha1 h dk ik (sealCtrSha1 h dk ik payload) = .ok payload := by
  obtain ⟨hp, ht⟩ := slice_body_tag payload (hmacSha1_length ik (pseudoHeader h ++ payload))
  simp only [openCtrSha1, sealCtrSha1, counterModeUndoesItself _ _ _, hp, ht, (ctEq_iff rfl).2, if_true]

/-- EAX opens what it sealed (R260, R261). -/
theorem openEax_sealEax (h : MsgHeader) (dk payload : Bytes) {tl : Nat} (htl : tl ≤ 16) :
    openEax h dk (sealEax h dk payload tl) tl = .ok payload := by
  have htag := eaxEnc_snd_length dk (eaxNonce h) (pseudoHeader h) payload htl
  obtain ⟨hc, ht⟩ := slice_body_tag (eaxEnc dk (eaxNonce h) (pseudoHeader h) payload tl).1 htag
  simp only [openEax, sealEax, hc, ht, eaxDec_eaxEnc _ _ _ _ htl htag, if_true]

/-- Opening undoes sealing under one header and one key record (R280). -/
theorem openRegion_sealRegion (enc : EncType) (h : MsgHeader) (S : Snapshot) (payload : Bytes) :
    openRegion enc h S (sealRegion enc h S payload) = .ok payload := by
  cases enc with
  | none => rfl
  | aes128CtrSha1 => exact openCtrSha1_sealCtrSha1 h S.dataKey S.intKey payload
  | aes128Eax64 => exact openEax_sealEax h S.dataKey payload (by decide)
  | aes128Eax128 => exact openEax_sealEax h S.dataKey payload (by decide)

/-- The part of a header that the wire and a matching context carry: all but the key id of an unencrypted message
(R154, R162). -/
def MsgHeader.delivered (h : MsgHeader) : MsgHeader := { h with keyId := if h.enc = 0 then 0 else h.keyId }

/-- A receiver whose context node ids are the message's for those absent from the wire (R162, R296). -/
theorem receivedBy_eq_delivered {h : MsgHeader} {S : Snapshot} (hsrc : h.toHdr.hasSrc = false → S.src = h.src)
    (hdst : h.toHdr.hasDst = false → S.dst = h.dst) : h.receivedBy S = h.delivered := by
  rw [toHdr_hasSrc] at hsrc
  rw [toHdr_hasDst] at hdst
  simp only [MsgHeader.receivedBy, MsgHeader.delivered, MsgHeader.mk.injEq, true_and, and_true]
  constructor <;> split
  · rfl
  · exact hsrc (Bool.eq_false_iff.2 ‹_›)
  · rfl
  · exact hdst (Bool.eq_false_iff.2 ‹_›)

/-- The key id enters no transform, so the delivered header opens what the sent one sealed (R185). -/
theorem openRegion_delivered (enc : EncType) (h : MsgHeader) (S : Snapshot) (payload : Bytes) :
    openRegion enc h.delivered S (sealRegion enc h S payload) = .ok payload := by
  have hopen := (transforms_congr (h := h) (h' := h.delivered) rfl rfl rfl enc S (sealRegion enc h S payload)).2
  exact hopen.trans (openRegion_sealRegion enc h S payload)

/-- The registers that a delivered header loads (R138, R290). -/
theorem applyWrites_delivered (s : State) (S : Snapshot) (enc : EncType) (n : Nat) :
    s.applyWrites (headerWrites ⟨enc, S.header.delivered, n⟩) =
      { s with
        hdr := { S.hdr with
          flags := S.hdr.flags &&& 0x0F0F, keyId := if S.hdr.encType = 0 then 0 else S.hdr.keyId }
        hdrLen := BitVec.ofNat 5 n } := by
  have hlow (x y : Word) : (x ++ y).setWidth 32 = y := BitVec.setWidth_append_eq_right
  have hhigh (x y : Word) : (x ++ y).extractLsb' 32 32 = x := BitVec.extractLsb'_append_eq_left
  have hflags : S.flags &&& flagsMask = S.hdr.flags &&& 0x0F0F := flagsMask_idem S.hdr.flags
  simp only [applyWrites_headerWrites, MsgHeader.delivered, Snapshot.header, Snapshot.src, Snapshot.dst, hlow, hhigh,
    hflags]
  rfl

/-- An IN_BUF that reads as an output, with the output's length in IN_LEN, gives the output as input (R138). -/
theorem input_eq_of_get {S : Snapshot} {m : Bytes} (hlen : S.inLen.toNat = m.length)
    (hget : ∀ k, k < m.length → Memory.get S.inBuf k = Memory.get (Memory.ofBytes m) k) : S.input = m :=
  calc S.input = Memory.toBytes S.inBuf m.length := by rw [Snapshot.input, hlen]
    _ = Memory.toBytes (Memory.ofBytes m) m.length :=
      List.map_congr_left fun k hk => hget k (List.mem_range.1 hk)
    _ = m := toBytes_ofBytes m

/-- DECODE's result on a message that ENCODE made of S: S's payload and the delivered header (R296). -/
theorem decodeResult_of_encoded {n : Nat} {S S' : Snapshot} {enc : EncType} (hvalid : validateHeader S = .ok enc)
    (hkey : S.keys.keyType = keyNeeded enc)
    (hinput : S'.input = packHeader S.header ++ sealRegion enc S.header S S.input) (hfits : S'.inLen.toNat ≤ n)
    (hkeys : S'.keys = S.keys) (hstrict : S'.ctrl.strictFlags = S.ctrl.strictFlags)
    (hsrc : (regHdr S).hasSrc = false → S'.src = S.src) (hdst : (regHdr S).hasDst = false → S'.dst = S.dst) :
    decodeResult n S' =
      .ok ⟨.bytes S.input, headerWrites ⟨enc, S.header.delivered, (packHeader S.header).length⟩⟩ := by
  obtain ⟨hver, hcode, hflags, -⟩ := (validateHeader_ok_iff S enc).1 hvalid
  rw [regHdr_eq] at hsrc hdst
  have hparse := parseHeader_packHeader S' (h := S.header) (sealRegion enc S.header S S.input) hver hcode
    (flagsMask_idem S.hdr.flags)
  rw [hstrict, receivedBy_eq_delivered hsrc hdst, ← hinput] at hparse
  replace hparse := hparse.trans (if_neg (Bool.eq_false_iff.1 hflags))
  have hregion : S'.input.drop (packHeader S.header).length = sealRegion enc S.header S S.input := by
    rw [hinput, List.drop_left]
  have hlong : tagLen enc ≤ S'.inLen.toNat - (packHeader S.header).length := by
    have hlen := congrArg List.length hregion
    rw [List.length_drop, input_length, sealRegion_length] at hlen
    omega
  have hchecked := (decodeChecked_ok_iff n S' _).2 ⟨hfits, hparse, hkeys ▸ hkey, hlong⟩
  rw [decodeResult_eq, hchecked]
  simp only [Except.bind, hregion, openRegion_congr_keys hkeys, openRegion_delivered]
  rfl

/-- Settles O48: the input of DECODE is ENCODE's output, which fits IN_LEN; the header parses back, and the region
opens to the payload. -/
theorem decodeUndoesEncode : Obligations.DecodeUndoesEncode := by
  intro s t s' S S' hwf hS hd ht hparams hS' hlen hbuf hkeys hstrict hsrc hdst
  obtain ⟨x, hx⟩ := reportsFirst_ok (encodeResult_reportsFirst s.params.bufBytes S) hd
  obtain ⟨enc, hvalid, hkey, -, hcap, rfl⟩ := (encodeResult_ok_iff _ S x).1 hx
  rw [exec_encode_busy hS, hx] at ht
  cases ht
  have hmax := (bufBytes_bounds hwf).2
  have hmsg : (packHeader S.header ++ sealRegion enc S.header S S.input).length =
      (packHeader S.header).length + S.inLen.toNat + tagLen enc := by
    rw [List.length_append, sealRegion_length, input_length, Nat.add_assoc]
  have hin : S'.inLen.toNat = (packHeader S.header ++ sealRegion enc S.header S S.input).length := by
    rw [hlen]
    exact Nat.mod_eq_of_lt (by omega)
  have hinput := input_eq_of_get hin fun k hk => hbuf k (by rwa [← hlen, hin])
  have hres := decodeResult_of_encoded hvalid hkey hinput (by omega) hkeys hstrict hsrc hdst (n := s.params.bufBytes)
  have hexec := exec_decode_busy hS'
  rw [hparams, hres, complete_ok, applyWrites_delivered] at hexec
  refine ⟨_, hexec, rfl, rfl, ?_, ?_, rfl, rfl⟩
  · exact (congrArg (BitVec.ofNat 17) (input_length S)).trans (by simp)
  · rw [← input_length S]
    exact toBytes_ofBytes S.input

end Sys2Proof.Machine

/-! SUPPORT. Exceptions (60_exceptions.md): the irq output after each operation that raises or drops it, and what an
error completion writes. -/

namespace Sys2Proof.Machine

/-! ### The irq output -/

/-- irq is high exactly while IRQ_EN and DONE are both 1 (R340). -/
theorem irq_iff (s : State) : s.irq = true ↔ s.ctrl.irqEn = true ∧ s.done = true := Bool.and_eq_true_iff

/-- irq is low while DONE = 0 (R340). -/
theorem irq_of_done_false {s : State} (h : s.done = false) : s.irq = false := by
  rw [State.irq, h, Bool.and_false]

/-- A reset drops irq (R340). -/
theorem irq_resetAll (s : State) : s.resetAll.irq = false := rfl

/-- The next command drops irq, because its issue clears DONE (R120, R340). -/
theorem irq_issue (s : State) (w : Word) : (s.issue w).irq = false := irq_of_done_false rfl

/-- Acknowledging DONE drops irq (R335, R340). -/
theorem irq_acknowledge {v : Word} (h : v.getLsbD 1 = true) (s : State) : (s.acknowledge v).irq = false :=
  irq_of_done_false (by simp [h])

/-- After a CTRL write irq is DONE under the written IRQ_EN, and low after a soft reset (R36, R340). -/
theorem irq_writeCtrl (s : State) (v : Word) :
    (s.writeCtrl v).irq = (!v.getLsbD 1 && (v.getLsbD 0 && s.done)) := by
  rcases writeCtrl_cases s v with ⟨hbit, h⟩ | ⟨hbit, h⟩ <;> rw [h, hbit]
  · exact irq_resetAll s
  · rfl

/-- Settles O29: the level from the bits of the two reads; each write by the operation of its register; rst by the
reset. -/
theorem irqFollowsDoneAndEnable : Obligations.IrqFollowsDoneAndEnable := by
  intro s v hr
  obtain ⟨hirqEn, -, -, -, -, hdone, -⟩ := controlAndStatusBits s hr
  have hctrl : s.memWrite 0x008 4 v = s.writeCtrl v := memWrite_reg (r := .ctrl) v hr (.inr rfl)
  have hstatus : s.memWrite 0x010 4 v = s.acknowledge v := memWrite_reg (r := .status) v hr (.inr rfl)
  rw [hirqEn, hdone, hctrl, hstatus, irq_writeCtrl]
  refine ⟨irq_iff s, fun h1 => ⟨irq_acknowledge h1 s, by rw [h1]; rfl⟩, fun hp => ?_,
    fun h0 => by rw [h0, Bool.false_and, Bool.and_false], fun h0 h1 hd => by rw [h0, h1, hd]; rfl, irq_resetAll s⟩
  have hcmd : s.memWrite 0x00C 4 v = s.issue v := memWrite_reg (r := .cmd) v hr (.inl (by simp [State.isBusy, hp]))
  rw [hcmd]
  exact irq_issue s v

/-! ### Error completions -/

/-- A completion that leaves a code other than 0 had an error for its result, since success records 0 (R122, R330). -/
theorem error_of_complete_errCode {s : State} {r : CmdResult} (h : (s.complete r).errCode ≠ 0) :
    ∃ e, r = .error e := by
  cases r with
  | ok x => exact absurd rfl h
  | error e => exact ⟨e, rfl⟩

/-- A command that leaves a code other than 0 had an error for its result (R330). -/
theorem resultOf_error_of_errCode {i : Instr} {s t : State} (ht : exec i s = .next t) (h : t.errCode ≠ 0) :
    ∃ e, resultOf i s = .error e := by
  rw [exec_eq] at ht
  cases ht
  refine error_of_complete_errCode (s := s) fun h0 => h ?_
  split <;> exact h0

/-- Settles O40: a command's error by its result, and an illegal word's by the completion of that error. -/
theorem errorsArePrecise : Obligations.ErrorsArePrecise := by
  refine ⟨fun i s t ht herr => ?_, fun s why => ⟨_, raiseError_eq_failed s (illegalError why)⟩⟩
  obtain ⟨e, he⟩ := resultOf_error_of_errCode ht herr
  rw [exec_eq, he] at ht
  cases ht
  split <;> rfl

end Sys2Proof.Machine

/-! SUPPORT. The rst input (70_reset_and_hazards.md): what a bus access does while rst = 1, and the state in which the
rise and the fall of rst leave the WMC. -/

namespace Sys2Proof.Machine

/-- While rst = 1 a write is ignored, an illegal one included (R361). -/
theorem memWrite_of_rst {s : State} (h : s.rst = true) (off n : Nat) (v : Word) : s.memWrite off n v = s :=
  if_pos h

/-- While rst = 1 a read has no effect, an illegal one included, and its data word is 0 (R361). -/
theorem memRead_of_rst {s : State} (h : s.rst = true) (off n : Nat) : s.memRead off n = { s with readData := 0 } := by
  have heffect : s.memReadEffect off n = s := if_pos h
  have hvalue : s.memReadValue off n = 0 := if_pos h
  rw [State.memRead, heffect, hvalue]

/-- A level of rst resets the WMC when rst is 1 on either side of it; the host keeps its last read data and the
schedule (R361). -/
theorem driveRst_eq_reset {s : State} {b : Bool} (h : b = true ∨ s.rst = true) :
    s.driveRst b =
      { State.resetWith s.params with rst := b, readData := s.readData, script := s.script } :=
  if_pos (Bool.or_eq_true_iff.2 h)

/-- Settles O16: the two accesses under rst; the rise has rst = 1 after it, and the fall before it. -/
theorem rstInputHoldsReset : Obligations.RstInputHoldsReset := by
  intro s
  refine ⟨fun hr off n v => ⟨memWrite_of_rst hr off n v, memRead_of_rst hr off n⟩, ?rise, fun hr => ?fall⟩
  case rise => exact driveRst_eq_reset (.inl rfl)
  case fall => exact driveRst_eq_reset (.inr hr)

end Sys2Proof.Machine
